-- ==== Sys2Proof/Word.lean ====
section
/-! DEFINITION. The byte, the result-code width, and the plain sum of bytes (00_scope.md R10, R12). -/

namespace Sys2Proof

/-- BYTE of R10: every wire field, register field and stream element is one byte. -/
abbrev Byte := BitVec 8

/-- The 4-bit width of `LAST_RESULT` (R20, R130). -/
abbrev ResultCode := BitVec 4

/-- The sum of the bytes as unsigned integers, not reduced (R12: `+` is on mathematical integers). -/
def byteSum : List Byte → Nat
  | [] => 0
  | b :: bs => b.toNat + byteSum bs

end Sys2Proof
end

