-- ==== Sys2Proof/Config.lean ====
section
/-! DEFINITION. The parameters of 00_scope.md R10 as named constants (R11, I14), the parameters a machine is built
with, and the free values: constants without a body, for what the spec leaves at "any value". -/

namespace Sys2Proof.Config

/-- START_MARK (R10): byte 0 of a frame. -/
def startMark : Byte := 0x01#8

/-- ALIGN_MARK (R10): byte 3 of a frame. -/
def alignMark : Byte := 0x01#8

/-- FOOTER_MARK (R10): the last byte of a frame. -/
def footerMark : Byte := 0x04#8

/-- MAX_ADDR (R10): an address field is legal when its value is at most 32. -/
def maxAddr : Byte := 0x20#8

/-- HDR_LEN (R10). -/
def hdrLen : Nat := 5

/-- TRAILER_LEN (R10): checksum and footer. -/
def trailerLen : Nat := 2

/-- The number of entries of `PBUF` and of `OBUF` (R20, R44: indices 0..254); MAX_PAYLOAD of R10. -/
def bufLen : Nat := 255

/-- RX_OVERFLOW (R10, R42, I7): what RX_SOURCE does with a byte that finds its buffer full. `other` is any
behaviour: a free value, log 5. -/
inductive Overflow where
  | dropNewest
  | dropOldest
  | other
  deriving DecidableEq, Repr

/-- The parameters of R10 that R10 leaves to the machine built. CYCLES is left out (no rule depends on it, R169;
log 14). -/
structure Params where
  /-- HDR_AVAIL_FIRST: the order of two checks in HDR_STEP (R91, D2). -/
  hdrAvailFirst : Bool
  /-- RX_CAP: RX_SOURCE's capacity in bytes; `none` bounds nothing (R42). -/
  rxCap : Option Nat
  /-- RX_OVERFLOW. -/
  rxOverflow : Overflow
  deriving DecidableEq, Repr

/-- HDR_AVAIL_FIRST at its default of R10; RX_CAP and RX_OVERFLOW, which R10 leaves OPEN, unbounded.
DESIGN CHOICE, unsafe: log 4. Statements are about every `Params`. -/
def defaultParams : Params := { hdrAvailFirst := false, rxCap := none, rxOverflow := .dropNewest }

/-- The two buffers of R44. -/
inductive BufferName where
  | pbuf
  | obuf
  deriving DecidableEq, Repr

/-- FREE VALUE (I3, I5; log 8): what a buffer byte reads as while the spec calls it unspecified: the buffer, how
often its contents have become unspecified, the index. -/
opaque unspecifiedByte : BufferName → Nat → Nat → Byte

/-- FREE VALUE (I7; log 5): the bytes RX_SOURCE holds after a byte found it full, under the policy `other`: how many
bytes have found it full before, the bytes it held, the byte that came. -/
opaque overflowOther : Nat → List Byte → Byte → List Byte

end Sys2Proof.Config
end

