-- ==== Sys2Proof/Syntax.lean ====
section
/-! DEFINITION. The instructions: one constructor per row of spec/opcode_table.json. -/

namespace Sys2Proof

/-- The six commands and the reserved codes of R64 and R66, whose operands are the argument registers at issue (R65,
R72), and the two wire units of R62 and R63, which the codec reads from the receive stream. -/
inductive Instr where
  /-- CKSUM_GEN, R81. -/
  | cksumGen
  /-- CKSUM_CHECK, R82. -/
  | cksumCheck
  /-- TRY_READ_HEADER, R90. -/
  | tryReadHeader
  /-- TRY_READ_MESSAGE, R96. -/
  | tryReadMessage
  /-- DECODE_TICK, R110. -/
  | decodeTick
  /-- ENCODE_FRAME, R121. -/
  | encodeFrame
  /-- RESERVED_CMD, R66, with the code written to `CMD_OP`. -/
  | reservedCmd (op : Byte)
  /-- FRAME_HEADER, R62: `[0x01, target, sender, 0x01, length]`. -/
  | frameHeader (target sender length : Byte)
  /-- FRAME_TRAILER, R63: `[checksum, 0x04]`. -/
  | frameTrailer (checksum : Byte)
  deriving DecidableEq, Repr

/-- The three streams of code words: what the HOST writes to `CMD_OP`, and the two units of the wire. Which of them
is read next is the codec's to say, not the bytes' (R32, R69). -/
inductive Space where
  | command
  | header
  | trailer
  deriving DecidableEq, Repr

/-- The space an instruction's word belongs to (the "format" column of the opcode table). -/
def Instr.space : Instr → Space
  | .cksumGen => .command
  | .cksumCheck => .command
  | .tryReadHeader => .command
  | .tryReadMessage => .command
  | .decodeTick => .command
  | .encodeFrame => .command
  | .reservedCmd _ => .command
  | .frameHeader _ _ _ => .header
  | .frameTrailer _ => .trailer

end Sys2Proof
end

