-- ==== Sys2Proof/WellFormed.lean ====
section
/-! DEFINITION. Which instruction terms the encodings of 30_encoding.md admit. -/

namespace Sys2Proof

/-- A reserved code is 0x00 or 0x07..0xFF (R66). -/
def isReservedOp (op : Byte) : Bool := op == 0x00#8 || 0x07#8 ≤ op

/-- An address field is legal when its value is at most 32 (R10, R60). -/
def legalAddr (a : Byte) : Bool := a ≤ Config.maxAddr

/-- The terms that stand for words of the encodings: a reserved code is one of R66's, a header's addresses are legal
(R62). Every other operand is free (R70: every length and every checksum byte is a legal word). -/
def Instr.wellFormed : Instr → Bool
  | .cksumGen => true
  | .cksumCheck => true
  | .tryReadHeader => true
  | .tryReadMessage => true
  | .decodeTick => true
  | .encodeFrame => true
  | .reservedCmd op => isReservedOp op
  | .frameHeader t s _ => legalAddr t && legalAddr s
  | .frameTrailer _ => true

end Sys2Proof
end

