-- ==== Sys2Proof/Decode.lean ====
section
/-! DEFINITION. The decoder of the three spaces, total on any bytes and rejecting by name, and after it the encoder
(30_encoding.md R60 to R70). -/

namespace Sys2Proof

/-- Why bytes are no word of their space. The first four and `badFooter` are the illegal wire values of R70; every
command byte is a word (R66). -/
inductive DecodeError where
  /-- Fewer bytes than the space's unit has. -/
  | tooShort
  /-- Byte 0 of a header is not 0x01. -/
  | badStart
  /-- Byte 3 of a header is not 0x01. -/
  | badMarker
  /-- Byte 1 of a header is over 0x20. -/
  | badTarget
  /-- Byte 2 of a header is over 0x20. -/
  | badSender
  /-- The byte after the checksum byte is not 0x04. -/
  | badFooter
  deriving DecidableEq, Repr

/-- The command codes of R64; every other code is reserved (R66). -/
def decodeCommand (op : Byte) : Instr :=
  if op = 0x01#8 then .cksumGen
  else if op = 0x02#8 then .cksumCheck
  else if op = 0x03#8 then .tryReadHeader
  else if op = 0x04#8 then .tryReadMessage
  else if op = 0x05#8 then .decodeTick
  else if op = 0x06#8 then .encodeFrame
  else .reservedCmd op

/-- The header of R62 from its five bytes, the four conditions in the order start, marker, target, sender
(R91, R137 (b)). -/
def decodeHeader (b0 b1 b2 b3 b4 : Byte) : Except DecodeError Instr :=
  if b0 ≠ Config.startMark then .error .badStart
  else if b3 ≠ Config.alignMark then .error .badMarker
  else if !legalAddr b1 then .error .badTarget
  else if !legalAddr b2 then .error .badSender
  else .ok (.frameHeader b1 b2 b4)

/-- The trailer of R63 from its two bytes. Whether its checksum byte is the right one is no matter of its encoding. -/
def decodeTrailer (c f : Byte) : Except DecodeError Instr :=
  if f ≠ Config.footerMark then .error .badFooter else .ok (.frameTrailer c)

/-- One word of a space and the bytes after it. Bytes stand in wire order, the first first (R47). -/
def decode : Space → List Byte → Except DecodeError (Instr × List Byte)
  | .command, op :: rest => .ok (decodeCommand op, rest)
  | .header, b0 :: b1 :: b2 :: b3 :: b4 :: rest =>
    match decodeHeader b0 b1 b2 b3 b4 with
    | .ok i => .ok (i, rest)
    | .error e => .error e
  | .trailer, c :: f :: rest =>
    match decodeTrailer c f with
    | .ok i => .ok (i, rest)
    | .error e => .error e
  | _, _ => .error .tooShort

/-- The five bytes of a header (R60). -/
def headerBytes (t s l : Byte) : List Byte := [Config.startMark, t, s, Config.alignMark, l]

/-- The two bytes of a trailer (R60, R63). -/
def trailerBytes (c : Byte) : List Byte := [c, Config.footerMark]

/-- The bytes of an instruction's word in wire order. -/
def encode : Instr → List Byte
  | .cksumGen => [0x01#8]
  | .cksumCheck => [0x02#8]
  | .tryReadHeader => [0x03#8]
  | .tryReadMessage => [0x04#8]
  | .decodeTick => [0x05#8]
  | .encodeFrame => [0x06#8]
  | .reservedCmd op => [op]
  | .frameHeader t s l => headerBytes t s l
  | .frameTrailer c => trailerBytes c

/-- The `n` bytes of the number `w`, the most significant first: the first wire byte is the most significant in the
packed values `H` and `T` (R62, R63). -/
def wireBytes : Nat → Nat → List Byte
  | 0, _ => []
  | n + 1, w => BitVec.ofNat 8 (w / 256 ^ n) :: wireBytes n w

/-- The space of the opcode table's rows of `nbits` bits: CMD 8, WIRE_TRAILER_16, WIRE_HEADER_40. -/
def spaceOfBits (nbits : Nat) : Option Space :=
  if nbits = 8 then some .command
  else if nbits = 16 then some .trailer
  else if nbits = 40 then some .header
  else none

/-- The instruction the decoder reads from a row's word, numbered as the table numbers it (R62, R63; log 11). -/
def decodeTableWord (nbits w : Nat) : Option Instr :=
  match spaceOfBits nbits with
  | none => none
  | some sp =>
    match decode sp (wireBytes (nbits / 8) w) with
    | .ok (i, _) => some i
    | .error _ => none

end Sys2Proof
end

