-- ==== Sys2Proof/Machine/State.lean ====
section
/-! DEFINITION. The state of the block (10_state.md R20), of the agents around it (00_scope.md R8) and of the moves
still to come; the reasons a step can stop; the state after reset. -/

namespace Sys2Proof.Machine

/-- The result codes of R130 by name; 0xB..0xF have no name: they are never written (R67). -/
inductive Result where
  | ok
  | needMore
  | noHeader
  | errStart
  | errMarker
  | errTarget
  | errSender
  | errChecksum
  | errFooter
  | errCmd
  | txSuppressed
  deriving DecidableEq, Repr

/-- What the CONSUMER receives (R8). -/
inductive Event where
  /-- `Deliver(t, s, L, p)`: one validated frame (R45). -/
  | deliver (target sender length : Byte) (payload : List Byte)
  /-- `Diag(code)`: one diagnostic event, which carries the code alone (R133, I17). -/
  | diag (code : Result)
  deriving DecidableEq, Repr

/-- A byte memory: the written bytes by index, in ONE canonical form (`Memory.wf` in Ops.lean). An unlisted index
has NO value; what reading it gives is said once, in `bufByte` (Ops.lean). -/
abbrev Memory := List Host.Cell

/-- `PBUF` or `OBUF` (R44). `epoch` is the MODEL's own: how often the contents have become unspecified, the argument
of the free value an unlisted byte reads as (log 8). -/
structure Buffer where
  cells : Memory
  epoch : Nat
  deriving DecidableEq, Repr

/-- One move of an agent around the block: the actions of R72, and the integrator's pin (R20, R28). -/
inductive Action where
  /-- `FEED b0 b1 ...`: RX_SOURCE appends the bytes in order (R42). -/
  | feed (bytes : List Byte)
  /-- `ARGS T=t S=s L=l C=c`: the HOST writes the named argument registers; any of them may be omitted. -/
  | args (t s l c : Option Byte)
  /-- `OBUF [b0, b1, ...]`: the HOST writes `OBUF` from an index on (R72 writes from index 0; R20 gives it every byte). -/
  | writeObuf (start : Nat) (bytes : List Byte)
  /-- The HOST writes a code to `CMD_OP`, which issues the command (R27, R64). While it runs RX_SOURCE appends
  `during`, one batch between two sub-steps, what is left at its end (R42, R52). -/
  | command (op : Byte) (during : List (List Byte))
  /-- RX_SOURCE from now on keeps completing what a tick asks for, by repeating these bytes; with no bytes it stops
  doing so (R42, R164). -/
  | supply (bytes : List Byte)
  /-- `RESET` (R150), between commands only (R152). -/
  | reset
  /-- The integrator drives the `LISTEN_ONLY` pin (R28). -/
  | listenOnly (level : Bool)
  deriving DecidableEq, Repr

/-- The reasons the model stops with a fault. No error of the block is among them: none is fatal (R138). -/
inductive Fault where
  /-- Raised by `rxPop` on an empty stream. I8 asks for it. Safe: unreachable, every pop is guarded (R41). -/
  | rxEmpty
  /-- Raised by a buffer access at an index over 254, which the spec says does not exist (R44). Only the HOST's
  `writeObuf` can form one. Safe: the model stops. -/
  | bufferRange (buffer : Config.BufferName) (index : Nat)
  /-- Raised by a DECODE_TICK that does not end, because RX_SOURCE keeps completing valid frames while it runs: stuck
  (R164, I18). Only with an endless supply (`rxSupply`), and exactly for the ticks no number of iterations ends. Safe:
  the machine gives no next state either. -/
  | tickUnfinished
  deriving DecidableEq, Repr

/-- The reasons the model gives an instruction no meaning. -/
inductive Refusal where
  /-- Raised by an arm of `exec` for an instruction without a meaning, by its mnemonic. No arm raises it. Safe. -/
  | notModelled (mnemonic : String)
  deriving DecidableEq, Repr

/-- The whole state: first what R20 gives the block, then what the rules say of the agents around it, then the
model's own fields. -/
structure State where
  /-- `HDR_PENDING` (R21). -/
  hdrPending : Bool
  /-- `HDR_TARGET` (R22). -/
  hdrTarget : Byte
  /-- `HDR_SENDER` (R22). -/
  hdrSender : Byte
  /-- `HDR_LENGTH` (R22). -/
  hdrLength : Byte
  /-- `PBUF[0..254]` (R23). -/
  pbuf : Buffer
  /-- `LAST_RESULT` (R24). -/
  lastResult : ResultCode
  /-- `CK_RESULT` (R25). -/
  ckResult : Byte
  /-- `CHK_MATCH` (R26). -/
  chkMatch : Bool
  /-- `CMD_OP` (R27). -/
  cmdOp : Byte
  /-- `ARG_T` (R27). -/
  argT : Byte
  /-- `ARG_S` (R27). -/
  argS : Byte
  /-- `ARG_L` (R27). -/
  argL : Byte
  /-- `ARG_C` (R27). -/
  argC : Byte
  /-- `OBUF[0..254]` (R27). -/
  obuf : Buffer
  /-- `LISTEN_ONLY` (R28). -/
  listenOnly : Bool
  /-- `RX_POS`, the observation of R30. -/
  rxPos : Nat
  /-- RX_SOURCE's unread bytes, the oldest first (R40, R41). -/
  rx : List Byte
  /-- The bytes TX_SINK has accepted, the first first (R43). -/
  tx : List Byte
  /-- The events the CONSUMER has received, the first first (R45, R133). -/
  events : List Event
  /-- The parameters of R10; no step changes them. -/
  params : Config.Params
  /-- The model's own: the batches RX_SOURCE still appends during the command under way (R42, R52; log 3). -/
  rxDuring : List (List Byte)
  /-- The model's own: the bytes RX_SOURCE repeats without end for as long as a tick asks for more, the next first; empty
  when it appends no more than `rxDuring` (R112, R164; log 3). -/
  rxSupply : List Byte
  /-- The model's own: how many bytes have found RX_SOURCE full, the argument of a free value (I7; log 5). -/
  overflowCount : Nat
  /-- The model's own: the moves still to come, the next first (R8, R72; log 1). -/
  script : List Action
  deriving DecidableEq, Repr

/-- A buffer of unspecified contents, for the first time (R150). -/
def Buffer.reset : Buffer := { cells := [], epoch := 0 }

/-- Power-up, which is a reset (R150, R153). `CMD_OP` and `ARG_*`, which R150 leaves unspecified, are 0x00 (DESIGN
CHOICE, log 6); `LISTEN_ONLY`, an input, is 0 (log 7); the streams and the events are empty (log 9); the script is
empty: the block is idle (R152; log 2). -/
def State.reset : State where
  hdrPending := false
  hdrTarget := 0x00#8
  hdrSender := 0x00#8
  hdrLength := 0x00#8
  pbuf := Buffer.reset
  lastResult := 0x0#4
  ckResult := 0x00#8
  chkMatch := false
  cmdOp := 0x00#8
  argT := 0x00#8
  argS := 0x00#8
  argL := 0x00#8
  argC := 0x00#8
  obuf := Buffer.reset
  listenOnly := false
  rxPos := 0
  rx := []
  tx := []
  events := []
  params := Config.defaultParams
  rxDuring := []
  rxSupply := []
  overflowCount := 0
  script := []

end Sys2Proof.Machine
end

