-- ==== Sys2Proof/Machine/Flags.lean ====
section
/-! DEFINITION. The result codes (60_exceptions.md R130) and the two flags (10_state.md R21, R26). -/

namespace Sys2Proof.Machine

/-- The 4-bit code of each result (R130). -/
def resultCode : Result → ResultCode
  | .ok => 0x0#4
  | .needMore => 0x1#4
  | .noHeader => 0x2#4
  | .errStart => 0x3#4
  | .errMarker => 0x4#4
  | .errTarget => 0x5#4
  | .errSender => 0x6#4
  | .errChecksum => 0x7#4
  | .errFooter => 0x8#4
  | .errCmd => 0x9#4
  | .txSuppressed => 0xA#4

/-- The results that are errors: those of codes 0x3..0x9, for which a Diag event is made (R130, R133). -/
def Result.isError : Result → Bool
  | .ok => false
  | .needMore => false
  | .noHeader => false
  | .errStart => true
  | .errMarker => true
  | .errTarget => true
  | .errSender => true
  | .errChecksum => true
  | .errFooter => true
  | .errCmd => true
  | .txSuppressed => false

/-- A code that is never written: 0xB..0xF (R67, R130). -/
def reservedResult (c : ResultCode) : Bool := 0xB#4 ≤ c

/-- The error a rejected wire word reports (R70). A word that is too short reports none: the codec waits (R91, R97). -/
def rejection : DecodeError → Result
  | .tooShort => .needMore
  | .badStart => .errStart
  | .badMarker => .errMarker
  | .badTarget => .errTarget
  | .badSender => .errSender
  | .badFooter => .errFooter

/-- `CHK_MATCH` after CKSUM_CHECK: the candidate equals the computed checksum (R82). -/
def matchFlag (candidate computed : Byte) : Bool := candidate == computed

end Sys2Proof.Machine
end

