-- ==== Sys2Proof/Machine/Ops.lean ====
section
/-! DEFINITION. The shared operations: the checksum, the buffers, the streams, the registers, the events, raising an
error, ending a command, reset. -/

namespace Sys2Proof.Machine

/-! ## The checksum (40_checksum.md R80) -/

/-- The total of R80 before its reduction: `0x01 + s + t + 0x01 + L + p[0] + ... + p[L−1]`. -/
def cksumWide (s t : Byte) (p : List Byte) : Nat :=
  Config.startMark.toNat + s.toNat + t.toNat + Config.alignMark.toNat + p.length + byteSum p

/-- `CKSUM(s, t, p) = 0xFF & (0 − (total − 1))`, with `total` mod 256 and the mask as the low byte of the exact integer
(R80). -/
def cksum (s t : Byte) (p : List Byte) : Byte :=
  BitVec.ofInt 8 (0 - (((cksumWide s t p % 256 : Nat) : Int) - 1))

/-! ## Frames on the wire (30_encoding.md R60) -/

/-- The whole frame of R60 with a given length byte and checksum byte. -/
def frameWith (t s l : Byte) (p : List Byte) (k : Byte) : List Byte :=
  headerBytes t s l ++ p ++ trailerBytes k

/-- The frame of R60 for (t, s, p) with its correct checksum (FEEDFRAME of R73). -/
def frameBytes (t s : Byte) (p : List Byte) : List Byte :=
  frameWith t s (BitVec.ofNat 8 p.length) p (cksum s t p)

/-! ## The buffers (20_memory.md R44) -/

/-- The byte listed at an index, if one is. -/
def Memory.lookup : Memory → Nat → Option Byte
  | [], _ => none
  | c :: m, i => if c.1 = i then some c.2 else Memory.lookup m i

/-- The memory with a byte written at an index; the indices keep rising. -/
def Memory.insert : Memory → Nat → Byte → Memory
  | [], i, v => [(i, v)]
  | c :: m, i, v =>
    if i < c.1 then (i, v) :: c :: m
    else if i = c.1 then (i, v) :: m
    else c :: Memory.insert m i v

/-- The canonical form: indices strictly rising and below 255. An unlisted index has no value, so no listed entry
equals what an unlisted one reads as. -/
abbrev Memory.wf (m : Memory) : Prop :=
  List.Pairwise (fun x y : Host.Cell => x.1 < y.1) m ∧ ∀ c ∈ m, c.1 < Config.bufLen

/-- The byte a buffer holds at an index: the listed byte, or a free value where the contents are unspecified
(I3, I5; log 8). -/
def bufByte (name : Config.BufferName) (b : Buffer) (i : Nat) : Byte :=
  (Memory.lookup b.cells i).getD (Config.unspecifiedByte name b.epoch i)

/-- The first `n` bytes a buffer holds. -/
def bufBytes (name : Config.BufferName) (b : Buffer) (n : Nat) : List Byte :=
  (List.range n).map (bufByte name b)

/-- `MemRead(buffer, i, 1)` (R13, R44). -/
def bufRead (name : Config.BufferName) (b : Buffer) (i : Nat) : Except Fault Byte :=
  if i < Config.bufLen then .ok (bufByte name b i) else .error (.bufferRange name i)

/-- `MemRead` of `n` bytes from index `i` on, in order. -/
def bufReadFrom (name : Config.BufferName) (b : Buffer) : Nat → Nat → Except Fault (List Byte)
  | _, 0 => .ok []
  | i, n + 1 =>
    match bufRead name b i with
    | .error f => .error f
    | .ok v =>
      match bufReadFrom name b (i + 1) n with
      | .error f => .error f
      | .ok vs => .ok (v :: vs)

/-- `MemWrite(buffer, i, 1, v)` (R13, R44). -/
def bufWrite (name : Config.BufferName) (b : Buffer) (i : Nat) (v : Byte) : Except Fault Buffer :=
  if i < Config.bufLen then .ok { b with cells := Memory.insert b.cells i v }
  else .error (.bufferRange name i)

/-- `MemWrite` of the bytes from index `i` on, in order. -/
def bufWriteFrom (name : Config.BufferName) : Buffer → Nat → List Byte → Except Fault Buffer
  | b, _, [] => .ok b
  | b, i, v :: vs =>
    match bufWrite name b i v with
    | .error f => .error f
    | .ok b' => bufWriteFrom name b' (i + 1) vs

/-- The buffer after bytes were written from index `i` on, where every index is in range. -/
def bufFill (b : Buffer) (i : Nat) : List Byte → Buffer
  | [] => b
  | v :: vs => bufFill { b with cells := Memory.insert b.cells i v } (i + 1) vs

/-- A buffer whose contents have become unspecified (I3, I5; log 8). -/
def bufForget (b : Buffer) : Buffer := { cells := [], epoch := b.epoch + 1 }

/-! ## Writing one part of the state -/

/-- `LAST_RESULT <- code` (R24). -/
def setResult (r : Result) (s : State) : State := { s with lastResult := resultCode r }

/-- `CK_RESULT <- k` (R25). -/
def setCkResult (k : Byte) (s : State) : State := { s with ckResult := k }

/-- `CHK_MATCH <- b` (R26). -/
def setChkMatch (b : Bool) (s : State) : State := { s with chkMatch := b }

/-- An accepted header's fields, and `HDR_PENDING <- 1` (R92). -/
def loadHeader (t sd l : Byte) (s : State) : State :=
  { s with hdrTarget := t, hdrSender := sd, hdrLength := l, hdrPending := true }

/-- `HDR_PENDING <- 0` (R99). -/
def clearPending (s : State) : State := { s with hdrPending := false }

/-- `PBUF` as a whole. -/
def setPbuf (b : Buffer) (s : State) : State := { s with pbuf := b }

/-- `OBUF` as a whole. -/
def setObuf (b : Buffer) (s : State) : State := { s with obuf := b }

/-- The HOST's write to `CMD_OP` (R27), with what RX_SOURCE appends while the command runs. -/
def issue (op : Byte) (during : List (List Byte)) (s : State) : State :=
  { s with cmdOp := op, rxDuring := during }

/-- The HOST's write to the argument registers; `none` leaves one as it is (R72). -/
def setArgs (t sd l c : Option Byte) (s : State) : State :=
  { s with argT := t.getD s.argT, argS := sd.getD s.argS, argL := l.getD s.argL, argC := c.getD s.argC }

/-- The integrator's level on the `LISTEN_ONLY` pin (R28). -/
def setListenOnly (b : Bool) (s : State) : State := { s with listenOnly := b }

/-- The bytes of RX_SOURCE's endless supply (R164). -/
def setSupply (bytes : List Byte) (s : State) : State := { s with rxSupply := bytes }

/-- The moves still to come. -/
def setScript (as : List Action) (s : State) : State := { s with script := as }

/-! ## The streams (20_memory.md R40 to R43) -/

/-- `RxAvail()` (R40). -/
def rxAvail (s : State) : Nat := s.rx.length

/-- The stream after its `n` oldest bytes have been popped: they are gone and `RX_POS` has risen by `n` (R30, R41). -/
def rxAdvance (n : Nat) (s : State) : State := { s with rx := s.rx.drop n, rxPos := s.rxPos + n }

/-- `RxPop()` (R41); on an empty stream a fault (I8). -/
def rxPop (s : State) : Except Fault (Byte × State) :=
  match s.rx with
  | [] => .error .rxEmpty
  | b :: _ => .ok (b, rxAdvance 1 s)

/-- `n` pops, the bytes in stream order. -/
def rxPopN : Nat → State → Except Fault (List Byte × State)
  | 0, s => .ok ([], s)
  | n + 1, s =>
    match rxPop s with
    | .error f => .error f
    | .ok (b, s1) =>
      match rxPopN n s1 with
      | .error f => .error f
      | .ok (bs, s2) => .ok (b :: bs, s2)

/-- RX_OVERFLOW: the unread bytes after a byte found RX_SOURCE full (R42, I7). Under `other` any bytes, as many as
before: the capacity is full and only the block takes bytes out (R42). -/
def overflowed (policy : Config.Overflow) (count : Nat) (held : List Byte) (b : Byte) : List Byte :=
  match policy with
  | .dropNewest => held
  | .dropOldest => (held ++ [b]).drop 1
  | .other =>
    let q := Config.overflowOther count held b
    if q.length = held.length then q else held

/-- Whether RX_SOURCE is full (RX_CAP, R10). -/
def rxFull (s : State) : Bool :=
  match s.params.rxCap with
  | none => false
  | some cap => cap ≤ s.rx.length

/-- RX_SOURCE appends one byte (R42). -/
def rxAppendByte (b : Byte) (s : State) : State :=
  if rxFull s then
    { s with rx := overflowed s.params.rxOverflow s.overflowCount s.rx b, overflowCount := s.overflowCount + 1 }
  else { s with rx := s.rx ++ [b] }

/-- RX_SOURCE appends bytes in line order (R42). -/
def rxAppend : List Byte → State → State
  | [], s => s
  | b :: bs, s => rxAppend bs (rxAppendByte b s)

/-- RX_SOURCE appends up to `n` bytes of its endless supply, while it has room; what it gave comes round again (R42,
R164; log 3). -/
def rxDraw : Nat → State → State
  | 0, s => s
  | n + 1, s =>
    match s.rxSupply with
    | [] => s
    | b :: bs => if rxFull s then s else rxDraw n { s with rx := s.rx ++ [b], rxSupply := bs ++ [b] }

/-- At the end of a command: RX_SOURCE appends the batches it still had to append during it (R52: a later arrival only
adds to what remains unread). -/
def rxSettle (s : State) : State := rxAppend s.rxDuring.flatten { s with rxDuring := [] }

/-- `TxWrite(v)` (R43). -/
def txWrite (v : Byte) (s : State) : State := { s with tx := s.tx ++ [v] }

/-- `TxWrite` of the bytes in order. -/
def txWriteAll : List Byte → State → State
  | [], s => s
  | v :: vs, s => txWriteAll vs (txWrite v s)

/-! ## Events and errors (60_exceptions.md) -/

/-- One event to the CONSUMER. -/
def emit (e : Event) (s : State) : State := { s with events := s.events ++ [e] }

/-- `raise` (R13, R134), this block's analogue of taking an exception: `LAST_RESULT` takes the code and one Diag event
is made. Nothing is saved elsewhere, there is no vector and no mode change; the bytes consumed and what becomes of
`HDR_PENDING` and `PBUF` are the failing sub-step's. There is no return to model: the next command is the return
(R135). -/
def raise (e : Result) (s : State) : State := emit (.diag e) (setResult e s)

/-- The end of a command: `LAST_RESULT` takes its result (R24). -/
def finish (x : Except Fault (State × Result)) : Host.Outcome State Fault Refusal :=
  match x with
  | .error f => .fault f
  | .ok (s, r) => .next (setResult r s)

/-! ## Reset (70_reset_and_hazards.md R150) -/

/-- The HOST's `RESET`: the registers of R150; the buffers become unspecified; the unspecified registers take the
values named for reset (log 6). The pin, the streams' contents, the events, the parameters and the moves to come are
not touched. -/
def resetBlock (s : State) : State :=
  { s with
    hdrPending := false, hdrTarget := 0x00#8, hdrSender := 0x00#8, hdrLength := 0x00#8,
    lastResult := resultCode .ok, ckResult := 0x00#8, chkMatch := false,
    cmdOp := 0x00#8, argT := 0x00#8, argS := 0x00#8, argL := 0x00#8, argC := 0x00#8,
    pbuf := bufForget s.pbuf, obuf := bufForget s.obuf, rxPos := 0 }

end Sys2Proof.Machine
end

