-- ==== Sys2Proof/Machine/Operands.lean ====
section
/-! DEFINITION. The operands of the commands (30_encoding.md R65): argument registers taken as they are, and the
payload in `OBUF`. -/

namespace Sys2Proof.Machine

/-- The number of payload bytes `ARG_L` names (R65). -/
def payloadLength (s : State) : Nat := s.argL.toNat

/-- `[MemRead(OBUF, i, 1) for i in 0 .. ARG_L−1]`, the payload operand (R65, R81). -/
def payloadOperand (s : State) : Except Fault (List Byte) :=
  bufReadFrom .obuf s.obuf 0 (payloadLength s)

/-- The payload those reads give, as `OBUF` holds it. -/
def payload (s : State) : List Byte := bufBytes .obuf s.obuf (payloadLength s)

/-- The number of payload bytes the pending header announces (R97). -/
def pendingLength (s : State) : Nat := s.hdrLength.toNat

/-- The bytes a pending message needs at once: `L + 2` (R97). -/
def messageNeed (s : State) : Nat := pendingLength s + Config.trailerLen

/-- The bytes the next sub-step's availability check asks for: a header's five, or what a pending header's message needs
(R91, R97). -/
def checkNeed (s : State) : Nat := if s.hdrPending then messageNeed s else Config.hdrLen

end Sys2Proof.Machine
end

