-- ==== Sys2Proof/Machine/Checksum.lean ====
section
/-! DEFINITION. The checksum family (40_checksum.md): CKSUM_GEN and CKSUM_CHECK. -/

namespace Sys2Proof.Machine

/-- The shared part of the commands that compute a checksum: read the payload, `CK_RESULT <- CKSUM(ARG_S, ARG_T, p)`, and
go on with the payload and the checksum (R81, R82, R121). -/
def withChecksum (s : State) (k : List Byte → Byte → State → State × Result) : Except Fault (State × Result) :=
  match payloadOperand s with
  | .error f => .error f
  | .ok p => .ok (k p (cksum s.argS s.argT p) (setCkResult (cksum s.argS s.argT p) s))

/-- CKSUM_GEN (R81). -/
def execCksumGen (s : State) : Host.Outcome State Fault Refusal :=
  finish (withChecksum s (fun _ _ s1 => (s1, .ok)))

/-- CKSUM_CHECK (R82): a mismatch is no error, `CHK_MATCH` says it. -/
def execCksumCheck (s : State) : Host.Outcome State Fault Refusal :=
  finish (withChecksum s (fun _ k s1 => (setChkMatch (matchFlag s.argC k) s1, .ok)))

end Sys2Proof.Machine
end

