-- ==== Sys2Proof/Machine/Receive.lean ====
section
/-! DEFINITION. The receive family (41_rx_decoder.md): the two sub-steps, the three commands built from them, and the
two wire units the sub-steps read. -/

namespace Sys2Proof.Machine

/-- HDR_STEP up to its pops (R91): the result it returns without consuming anything, or `none` when it goes on. -/
def hdrGate (s : State) : Option Result :=
  if s.params.hdrAvailFirst && decide (rxAvail s < Config.hdrLen) then some .needMore
  else if s.hdrPending then some .ok
  else if rxAvail s < Config.hdrLen then some .needMore
  else none

/-- HDR_STEP after its pops: the header is accepted or rejected (R92, R93). -/
def hdrVerdict (b0 b1 b2 b3 b4 : Byte) (s : State) : State × Result :=
  match decodeHeader b0 b1 b2 b3 b4 with
  | .error e => (raise (rejection e) s, rejection e)
  | .ok _ => (loadHeader b1 b2 b4 s, .ok)

/-- HDR_STEP (R91), where `unit`, if given, stands for the five bytes at the head of the stream. All five are popped
before any check. -/
def hdrStepOn (unit : Option (List Byte)) (s : State) : Except Fault (State × Result) :=
  match hdrGate s with
  | some r => .ok (s, r)
  | none =>
    match rxPopN Config.hdrLen s with
    | .error f => .error f
    | .ok (bs, s1) =>
      match unit.getD bs with
      | [b0, b1, b2, b3, b4] => .ok (hdrVerdict b0 b1 b2 b3 b4 s1)
      | _ => .error .rxEmpty

/-- `HDR_STEP()` (R91). -/
def hdrStep (s : State) : Except Fault (State × Result) := hdrStepOn none s

/-- MSG_STEP up to its pops (R97): the result it returns without consuming anything, or `none` when it goes on. -/
def msgGate (s : State) : Option Result :=
  if !s.hdrPending then some .noHeader
  else if rxAvail s < messageNeed s then some .needMore
  else none

/-- `MemWrite(PBUF, i, 1, RxPop())` for `n` indices from `i` on (R97). -/
def fillPbuf : Nat → Nat → State → Except Fault State
  | _, 0, s => .ok s
  | i, n + 1, s =>
    match rxPop s with
    | .error f => .error f
    | .ok (v, s1) =>
      match bufWrite .pbuf s1.pbuf i v with
      | .error f => .error f
      | .ok b => fillPbuf (i + 1) n (setPbuf b s1)

/-- A failed message: the error is raised and the contents of `PBUF` are unspecified from here on (R23, R134). -/
def rejectMessage (e : Result) (s : State) : State × Result :=
  (raise e (setPbuf (bufForget s.pbuf) s), e)

/-- The two checks of a message whose payload is `p`, the checksum before the footer, and the delivery (R97, R100 to
R102, R137 (c)). -/
def msgVerdict (p : List Byte) (c f : Byte) (s : State) : State × Result :=
  if c ≠ cksum s.hdrSender s.hdrTarget p then rejectMessage .errChecksum s
  else
    match decodeTrailer c f with
    | .error e => rejectMessage (rejection e) s
    | .ok _ => (emit (.deliver s.hdrTarget s.hdrSender s.hdrLength p) s, .ok)

/-- MSG_STEP (R97), where `unit`, if given, stands for the two bytes after the payload. Payload, checksum and footer are
all consumed and `HDR_PENDING` is cleared before either check (R98, R99). -/
def msgStepOn (unit : Option (List Byte)) (s : State) : Except Fault (State × Result) :=
  match msgGate s with
  | some r => .ok (s, r)
  | none =>
    match fillPbuf 0 (pendingLength s) s with
    | .error f => .error f
    | .ok s1 =>
      match rxPopN Config.trailerLen s1 with
      | .error f => .error f
      | .ok (bs, s2) =>
        match bufReadFrom .pbuf s2.pbuf 0 (pendingLength s2) with
        | .error f => .error f
        | .ok p =>
          match unit.getD bs with
          | [c, f] => .ok (msgVerdict p c f (clearPending s2))
          | _ => .error .rxEmpty

/-- `MSG_STEP()` (R97). -/
def msgStep (s : State) : Except Fault (State × Result) := msgStepOn none s

/-- Between two sub-steps of a tick RX_SOURCE appends its next batch, if it has one (R52); with none left, what its
endless supply gives towards the next availability check (R164; log 3). -/
def rxArrive (s : State) : State :=
  match s.rxDuring with
  | [] => rxDraw (checkNeed s - rxAvail s) s
  | batch :: more => rxAppend batch { s with rxDuring := more }

/-- The loop of R111, at most `n` iterations; RX_SOURCE may append between two sub-steps (R52). -/
def tickLoop : Nat → State → Except Fault (State × Result)
  | 0, _ => .error .tickUnfinished
  | n + 1, s =>
    match hdrStep s with
    | .error f => .error f
    | .ok (s1, r1) =>
      if r1 ≠ .ok then .ok (s1, r1)
      else
        match msgStep (rxArrive s1) with
        | .error f => .error f
        | .ok (s2, r2) => if r2 ≠ .ok then .ok (s2, r2) else tickLoop n (rxArrive s2)

/-- The bound of R112 on a tick's iterations while RX_SOURCE appends finitely many bytes: `⌊(N + M) / 2⌋ + 1`, with `N`
bytes available and `M` still to come. -/
def tickBound (s : State) : Nat := (s.rx.length + s.rxDuring.flatten.length) / 2 + 1

/-- A tick that still goes on after so many iterations never ends (R164): past R112's bound only the endless supply is
read, and after as many iterations again as it has bytes one has begun at a byte at which another began. -/
def tickLimit (s : State) : Nat := tickBound s + s.rxSupply.length

/-- TRY_READ_HEADER (R90). -/
def execTryReadHeader (s : State) : Host.Outcome State Fault Refusal := finish (hdrStep s)

/-- TRY_READ_MESSAGE (R96). -/
def execTryReadMessage (s : State) : Host.Outcome State Fault Refusal := finish (msgStep s)

/-- DECODE_TICK (R111); a tick that does not end (R164, I18) is the fault `tickUnfinished`. -/
def execDecodeTick (s : State) : Host.Outcome State Fault Refusal := finish (tickLoop (tickLimit s) s)

/-- FRAME_HEADER (R62, R92): HDR_STEP with this unit at the head of the stream (log 10). -/
def execFrameHeader (target sender length : Byte) (s : State) : Host.Outcome State Fault Refusal :=
  finish (hdrStepOn (some (headerBytes target sender length)) s)

/-- FRAME_TRAILER (R63, R97): MSG_STEP with this unit after the payload (log 10). -/
def execFrameTrailer (checksum : Byte) (s : State) : Host.Outcome State Fault Refusal :=
  finish (msgStepOn (some (trailerBytes checksum)) s)

end Sys2Proof.Machine
end

