-- ==== Sys2Proof/Machine/Reserved.lean ====
section
/-! DEFINITION. The reserved command codes (30_encoding.md R66). -/

namespace Sys2Proof.Machine

/-- RESERVED_CMD (R66): ERR_CMD, one Diag, no other effect, whatever the code. -/
def execReservedCmd (_op : Byte) (s : State) : Host.Outcome State Fault Refusal :=
  finish (.ok (raise .errCmd s, .errCmd))

end Sys2Proof.Machine
end

