-- ==== Sys2Proof/Machine/Transmit.lean ====
section
/-! DEFINITION. The transmit family (42_tx_encoder.md): ENCODE_FRAME. -/

namespace Sys2Proof.Machine

/-- ENCODE_FRAME (R121): the operands are not checked (R122); with `LISTEN_ONLY` no byte is written (R123). -/
def execEncodeFrame (s : State) : Host.Outcome State Fault Refusal :=
  finish (withChecksum s (fun p k s1 =>
    if s.listenOnly then (s1, .txSuppressed)
    else (txWriteAll (frameWith s.argT s.argS s.argL p k) s1, .ok)))

end Sys2Proof.Machine
end

