-- ==== Sys2Proof/Machine/Dispatch.lean ====
section
/-! DEFINITION. One arm per instruction, each one call of its meaning. -/

namespace Sys2Proof.Machine

def exec (i : Instr) (s : State) : Host.Outcome State Fault Refusal :=
  match i with
  | .cksumGen => Sys2Proof.Machine.execCksumGen s
  | .cksumCheck => Sys2Proof.Machine.execCksumCheck s
  | .tryReadHeader => Sys2Proof.Machine.execTryReadHeader s
  | .tryReadMessage => Sys2Proof.Machine.execTryReadMessage s
  | .decodeTick => Sys2Proof.Machine.execDecodeTick s
  | .encodeFrame => Sys2Proof.Machine.execEncodeFrame s
  | .reservedCmd op => Sys2Proof.Machine.execReservedCmd op s
  | .frameHeader t sd l => Sys2Proof.Machine.execFrameHeader t sd l s
  | .frameTrailer c => Sys2Proof.Machine.execFrameTrailer c s

end Sys2Proof.Machine
end

