-- ==== Sys2Proof/Machine/Environment.lean ====
section
/-! DEFINITION. The moves of the agents around the block (00_scope.md R8, 30_encoding.md R72, R73), and what stands
at a place where an instruction is read. -/

namespace Sys2Proof.Machine

/-- The end of a command's run: RX_SOURCE's remaining appends land; a stop stays a stop. -/
def settle (o : Host.Outcome State Fault Refusal) : Host.Outcome State Fault Refusal :=
  match o with
  | .next s => .next (rxSettle s)
  | .fault f => .fault f
  | .refused r => .refused r

/-- The HOST's write to `OBUF` from an index on (R20, R72); an index over 254 does not exist (R44). -/
def hostWriteObuf (start : Nat) (bytes : List Byte) (s : State) : Host.Outcome State Fault Refusal :=
  match bufWriteFrom .obuf s.obuf start bytes with
  | .error f => .fault f
  | .ok b => .next (setObuf b s)

/-- The HOST's write to `CMD_OP`: the command it encodes runs to completion (R9, R27, R64). -/
def hostCommand (op : Byte) (during : List (List Byte)) (s : State) : Host.Outcome State Fault Refusal :=
  settle (exec (decodeCommand op) (issue op during s))

/-- One move (R72). -/
def perform (a : Action) (s : State) : Host.Outcome State Fault Refusal :=
  match a with
  | .feed bytes => .next (rxAppend bytes s)
  | .args t sd l c => .next (setArgs t sd l c s)
  | .writeObuf start bytes => hostWriteObuf start bytes s
  | .command op during => hostCommand op during s
  | .supply bytes => .next (setSupply bytes s)
  | .reset => .next (resetBlock s)
  | .listenOnly level => .next (setListenOnly level s)

/-- The next move of the script is made; with no move to come the block is idle and nothing changes (R152). -/
def runScript (s : State) : Host.Outcome State Fault Refusal :=
  match s.script with
  | [] => .next s
  | a :: rest => perform a (setScript rest s)

/-- Puts the word of a row of the opcode table where the next step reads its instruction: a command code in the HOST's
next move; a header at the head of the stream, none pending, TRY_READ_HEADER issued; a trailer at the head of the
stream, a header of length 0 pending, TRY_READ_MESSAGE issued (logs 2, 10, 11). -/
def placeWord (nbits w : Nat) (s : State) : State :=
  match spaceOfBits nbits with
  | none => s
  | some .command => setScript (.command (BitVec.ofNat 8 w) [] :: s.script) s
  | some .header =>
    { s with hdrPending := false, rx := wireBytes 5 w ++ s.rx.drop 5, script := .command 0x03#8 [] :: s.script }
  | some .trailer =>
    { s with
      hdrPending := true, hdrLength := 0x00#8, rx := wireBytes 2 w ++ s.rx.drop 2,
      script := .command 0x04#8 [] :: s.script }

/-- `SEND t, s, [p]` (R73). -/
def sendScript (t s : Byte) (p : List Byte) : List Action :=
  [.writeObuf 0 p, .args (some t) (some s) (some (BitVec.ofNat 8 p.length)) none, .command 0x06#8 []]

/-- `GEN s, t, [p]` (R73). -/
def genScript (s t : Byte) (p : List Byte) : List Action :=
  [.writeObuf 0 p, .args (some t) (some s) (some (BitVec.ofNat 8 p.length)) none, .command 0x01#8 []]

/-- `CHECK c, s, t, [p]` (R73). -/
def checkScript (c s t : Byte) (p : List Byte) : List Action :=
  [.writeObuf 0 p, .args (some t) (some s) (some (BitVec.ofNat 8 p.length)) (some c), .command 0x02#8 []]

/-- `FEEDFRAME t, s, [p]` (R73). -/
def feedFrame (t s : Byte) (p : List Byte) : Action := .feed (frameBytes t s p)

end Sys2Proof.Machine
end

