-- ==== Sys2Proof/Machine/Step.lean ====
section
/-! DEFINITION. One step: the next move of the script, a command being run to completion (00_scope.md R9). -/

namespace Sys2Proof.Machine

/-- One step of the machine and the agents around it. -/
def step (s : State) : Host.Outcome State Fault Refusal := runScript s

/-- `s` with one instruction of the opcode table stored where `step` reads its next instruction. -/
def State.withFetchWord (s : State) (nbits w : Nat) : State := placeWord nbits w s

end Sys2Proof.Machine
end

