-- ==== Sys2Proof/Safety.lean ====
section
/-! DEFINITION. What a safe state and a safe run are, in the terms the statements use. -/

namespace Sys2Proof.Machine

/-- The invariant of R31: a pending header's addresses are legal. -/
def pendingAddressesLegal (s : State) : Bool :=
  !s.hdrPending || (legalAddr s.hdrTarget && legalAddr s.hdrSender)

/-- `LAST_RESULT` holds no reserved code (R67). -/
def resultLegal (s : State) : Bool := !reservedResult s.lastResult

/-- An event the rules allow: a delivered frame has legal addresses and as many payload bytes as its length says (R45,
R92); a Diag carries an error code (R133). -/
def eventLegal : Event → Bool
  | .deliver t s l p => legalAddr t && legalAddr s && p.length == l.toNat
  | .diag r => r.isError

/-- RX_SOURCE holds no more than its capacity (R10, R42). -/
def rxWithinCap (s : State) : Bool :=
  match s.params.rxCap with
  | none => true
  | some cap => s.rx.length ≤ cap

/-- Both buffers keep the canonical form. -/
abbrev buffersWf (s : State) : Prop := Memory.wf s.pbuf.cells ∧ Memory.wf s.obuf.cells

/-- The invariant of the block between commands. -/
abbrev blockInv (s : State) : Prop :=
  pendingAddressesLegal s = true ∧ resultLegal s = true ∧ s.events.all eventLegal = true ∧ rxWithinCap s = true ∧
    buffersWf s ∧ s.rxDuring = []

/-- A step that went on. -/
def isNext : Host.Outcome State Fault Refusal → Bool
  | .next _ => true
  | .fault _ => false
  | .refused _ => false

/-- A pending header that RX_SOURCE can never complete: it needs more bytes at once than the capacity (R161, I19). -/
def stalled (s : State) : Bool :=
  match s.params.rxCap with
  | none => false
  | some cap => s.hdrPending && cap < messageNeed s && s.rx.length ≤ cap

/-- The bytes RX_SOURCE holds unread, and after them those it still appends during the command under way. -/
def unread (s : State) : List Byte := s.rx ++ s.rxDuring.flatten

/-- The frames delivered by a list of events, in order, as the bytes that carried them (R60). -/
def deliveredBytes : List Event → List Byte
  | [] => []
  | .deliver t s _ p :: es => frameBytes t s p ++ deliveredBytes es
  | .diag _ :: es => deliveredBytes es

/-- The deliveries among events. -/
def isDelivery : Event → Bool
  | .deliver _ _ _ _ => true
  | .diag _ => false

/-- How many bytes of `PBUF` a delivered frame occupied (R44). -/
def payloadExtent : Event → Nat
  | .deliver _ _ _ p => p.length
  | .diag _ => 0

/-- The receive commands of R65, and the two wire units they read. -/
def isReceive : Instr → Bool
  | .cksumGen => false
  | .cksumCheck => false
  | .tryReadHeader => true
  | .tryReadMessage => true
  | .decodeTick => true
  | .encodeFrame => false
  | .reservedCmd _ => false
  | .frameHeader _ _ _ => true
  | .frameTrailer _ => true

/-- An outcome with its next state changed. -/
def mapNext (g : State → State) : Host.Outcome State Fault Refusal → Host.Outcome State Fault Refusal
  | .next s => .next (g s)
  | .fault f => .fault f
  | .refused r => .refused r

/-- `n` DECODE_TICKs one after the other (R115). -/
def ticks : Nat → State → Host.Outcome State Fault Refusal
  | 0, s => .next s
  | n + 1, s =>
    match exec .decodeTick s with
    | .next s' => ticks n s'
    | .fault f => .fault f
    | .refused r => .refused r

/-- One DECODE_TICK during which RX_SOURCE appends the given batches (R52). -/
def tickDuring (during : List (List Byte)) (s : State) : Host.Outcome State Fault Refusal :=
  settle (exec .decodeTick { s with rxDuring := during })

/-- One DECODE_TICK after the other, each with the batches that arrive during it. -/
def ticksDuring : List (List (List Byte)) → State → Host.Outcome State Fault Refusal
  | [], s => .next s
  | during :: more, s =>
    match tickDuring during s with
    | .next s' => ticksDuring more s'
    | .fault f => .fault f
    | .refused r => .refused r

/-- Pieces of a byte stream, each fed and followed by ticks during which more of the stream may arrive (R116). -/
def feedPieces : List (List Byte × List (List (List Byte))) → State → Host.Outcome State Fault Refusal
  | [], s => .next s
  | (piece, durings) :: more, s =>
    match ticksDuring durings (rxAppend piece s) with
    | .next s' => feedPieces more s'
    | .fault f => .fault f
    | .refused r => .refused r

/-- The byte stream that such pieces make, in line order. -/
def streamOf : List (List Byte × List (List (List Byte))) → List Byte
  | [] => []
  | (piece, durings) :: more => piece ++ durings.flatten.flatten ++ streamOf more

end Sys2Proof.Machine
end

