-- ==== Sys2Proof/Certificates/Slice0/Obligations.lean ====
section
/-! DEFINITION. The statements for the provers, each citing the rule of spec/ it formalises. -/

open Sys2Proof Sys2Proof.Machine

/-! ## Encodings (30_encoding.md) -/

/-- The word of every well-formed instruction decodes to that instruction, whatever bytes follow (30_encoding.md). -/
def Obligations.DecodeInvertsEncode : Prop :=
  ∀ (i : Instr) (rest : List Byte), i.wellFormed = true → decode i.space (encode i ++ rest) = .ok (i, rest)

/-- Whatever decodes is a well-formed instruction of the space asked for, and the bytes read are its word: each word has
one meaning (R69). -/
def Obligations.EncodeInvertsDecode : Prop :=
  ∀ (sp : Space) (bs rest : List Byte) (i : Instr), decode sp bs = .ok (i, rest) →
    i.wellFormed = true ∧ i.space = sp ∧ bs = encode i ++ rest

/-- R62: packed first byte most significant, a header is accepted exactly under the mask and the two bounds. -/
def Obligations.HeaderAcceptedByPattern : Prop :=
  ∀ H : BitVec 40,
    wireBytes 5 H.toNat =
        [H.extractLsb' 32 8, H.extractLsb' 24 8, H.extractLsb' 16 8, H.extractLsb' 8 8, H.extractLsb' 0 8] ∧
      ((∃ i, decode .header (wireBytes 5 H.toNat) = .ok (i, [])) ↔
        (H &&& 0xFF0000FF00#40) = 0x0100000100#40 ∧ H.extractLsb' 24 8 ≤ 0x20#8 ∧ H.extractLsb' 16 8 ≤ 0x20#8)

/-- R63: a trailer is accepted exactly when its high byte is the checksum of the pending frame and its low byte the
footer, which is the mask's test. -/
def Obligations.TrailerAcceptedByPattern : Prop :=
  ∀ (s : State) (p rest : List Byte) (T : BitVec 16), s.hdrPending = true →
    s.rx = p ++ T.extractLsb' 8 8 :: T.extractLsb' 0 8 :: rest → p.length = s.hdrLength.toNat →
    wireBytes 2 T.toNat = [T.extractLsb' 8 8, T.extractLsb' 0 8] ∧
      (T.extractLsb' 0 8 = 0x04#8 ↔ (T &&& 0x00FF#16) = 0x0004#16) ∧
      ∃ t, exec .tryReadMessage s = .next t ∧
        (t.lastResult = resultCode .ok ↔
          T.extractLsb' 8 8 = cksum s.hdrSender s.hdrTarget p ∧ T.extractLsb' 0 8 = 0x04#8)

/-- Words written out from R62 to R66 decode to the rows of the opcode table they stand for. -/
def Obligations.TableWordsDecode : Prop :=
  decodeTableWord 8 0x01 = some .cksumGen ∧ decodeTableWord 8 0x02 = some .cksumCheck ∧
    decodeTableWord 8 0x03 = some .tryReadHeader ∧ decodeTableWord 8 0x04 = some .tryReadMessage ∧
    decodeTableWord 8 0x05 = some .decodeTick ∧ decodeTableWord 8 0x06 = some .encodeFrame ∧
    decodeTableWord 8 0x00 = some (.reservedCmd 0x00#8) ∧ decodeTableWord 8 0x07 = some (.reservedCmd 0x07#8) ∧
    decodeTableWord 40 0x0120050109 = some (.frameHeader 0x20#8 0x05#8 0x09#8) ∧
    decodeTableWord 40 0x0121050109 = none ∧ decodeTableWord 16 0xF704 = some (.frameTrailer 0xF7#8) ∧
    decodeTableWord 16 0xF705 = none

/-! ## A step runs the decoded instruction -/

/-- The command a code word decodes to is what a step runs (R27, R64), around it only: the script moves on, `CMD_OP`
holds the code, and what RX_SOURCE appends meanwhile lands. The wire units are read from the receive stream, whose
position stands where a program counter would (R30): with TRY_READ_HEADER issued and no header pending, the header at
the head of the stream; with TRY_READ_MESSAGE issued and a header pending, the trailer after its payload (log 10). -/
def Obligations.StepRunsDecodedInstruction : Prop :=
  ∀ (s : State) (op : Byte) (during : List (List Byte)) (rest : List Action),
    s.script = .command op during :: rest →
    (∀ i : Instr, decode .command [op] = .ok (i, []) →
      step s = settle (exec i (issue op during (setScript rest s)))) ∧
    (∀ (i : Instr) (more : List Byte), op = 0x03#8 → s.hdrPending = false → decode .header s.rx = .ok (i, more) →
      step s = settle (exec i (issue op during (setScript rest s)))) ∧
    (∀ (i : Instr) (more : List Byte), op = 0x04#8 → s.hdrPending = true →
      decode .trailer (s.rx.drop s.hdrLength.toNat) = .ok (i, more) →
      step s = settle (exec i (issue op during (setScript rest s))))

/-- R152: with no move to come the block is idle: a step changes nothing (log 1). -/
def Obligations.IdleStepChangesNothing : Prop :=
  ∀ s : State, s.script = [] → step s = .next s

/-! ## Reset (70_reset_and_hazards.md) -/

/-- R150: after power-up and after the HOST's RESET the registers hold the values the rule gives, and RESET leaves the
pin, both streams and the events alone. -/
def Obligations.ResetValues : Prop :=
  (State.reset.hdrPending = false ∧ State.reset.hdrTarget = 0x00#8 ∧ State.reset.hdrSender = 0x00#8 ∧
      State.reset.hdrLength = 0x00#8 ∧ State.reset.lastResult = 0x0#4 ∧ State.reset.ckResult = 0x00#8 ∧
      State.reset.chkMatch = false ∧ State.reset.rxPos = 0) ∧
    ∀ (s : State) (rest : List Action), s.script = .reset :: rest →
      ∃ t, step s = .next t ∧ t.hdrPending = false ∧ t.hdrTarget = 0x00#8 ∧ t.hdrSender = 0x00#8 ∧
        t.hdrLength = 0x00#8 ∧ t.lastResult = 0x0#4 ∧ t.ckResult = 0x00#8 ∧ t.chkMatch = false ∧ t.rxPos = 0 ∧
        t.listenOnly = s.listenOnly ∧ t.rx = s.rx ∧ t.tx = s.tx ∧ t.events = s.events

/-! ## The moves of HOST, RX_SOURCE and integrator -/

/-- FEED, ARGS, the pin and the endless supply (R28, R42, R72; log 3): each changes what it names and nothing else. FEED
on an RX_SOURCE that is unbounded appends the bytes in order. -/
def Obligations.EnvironmentMoves : Prop :=
  ∀ (s : State) (rest : List Action),
    (∀ bytes, s.script = .feed bytes :: rest → s.params.rxCap = none →
      step s = .next { s with script := rest, rx := s.rx ++ bytes }) ∧
    (∀ t sd l c, s.script = .args t sd l c :: rest →
      step s = .next { s with
        script := rest, argT := t.getD s.argT, argS := sd.getD s.argS, argL := l.getD s.argL,
        argC := c.getD s.argC }) ∧
    (∀ level, s.script = .listenOnly level :: rest → step s = .next { s with script := rest, listenOnly := level }) ∧
    (∀ bytes, s.script = .supply bytes :: rest → step s = .next { s with script := rest, rxSupply := bytes })

/-- R42, R52: what RX_SOURCE appends during a command. At its end all batches left land, as a FEED of them in order would,
and between two sub-steps exactly the next batch does, as a FEED of it would; on an RX_SOURCE that is unbounded they
are appended to the unread bytes. With no batch left the endless supply gives what the next availability check still
asks for, in its order and round again, where RX_SOURCE has room, and nothing if it is empty (log 3). -/
def Obligations.ArrivalsLand : Prop :=
  ∀ s : State,
    settle (.next s) = perform (.feed s.rxDuring.flatten) { s with rxDuring := [] } ∧
    (s.params.rxCap = none →
      settle (.next s) = .next { s with rx := s.rx ++ s.rxDuring.flatten, rxDuring := [] }) ∧
    (∀ batch more, s.rxDuring = batch :: more →
      .next (rxArrive s) = perform (.feed batch) { s with rxDuring := more } ∧
      (s.params.rxCap = none → rxArrive s = { s with rx := s.rx ++ batch, rxDuring := more })) ∧
    (s.rxDuring = [] → s.rxSupply = [] → rxArrive s = s) ∧
    ∀ n, s.rxDuring = [] → s.rxSupply ≠ [] → n = (if s.hdrPending then s.hdrLength.toNat + 2 else 5) - s.rx.length →
      (∀ cap, s.params.rxCap = some cap → s.rx.length + n ≤ cap) →
      rxArrive s = { s with
        rx := s.rx ++ (List.range n).map (fun j => s.rxSupply.getD (j % s.rxSupply.length) 0x00#8),
        rxSupply := s.rxSupply.rotate n }

/-- R52, R111: a frame whose header is there when DECODE_TICK is issued, and whose other bytes RX_SOURCE appends during
it in one batch, is delivered by that very step; what came after it remains unread. -/
def Obligations.ArrivalsDuringTick : Prop :=
  ∀ (s : State) (rest : List Action) (t sd l : Byte) (p more : List Byte), t ≤ 0x20#8 → sd ≤ 0x20#8 →
    p.length = l.toNat → more.length < 5 → s.hdrPending = false → s.params.rxCap = none → s.rxSupply = [] →
    s.rx = [0x01#8, t, sd, 0x01#8, l] →
    s.script = .command 0x05#8 [p ++ [cksum sd t p, 0x04#8] ++ more] :: rest →
    ∃ u, step s = .next u ∧ u.events = s.events ++ [.deliver t sd l p] ∧ u.rx = more ∧
      u.rxPos = s.rxPos + (l.toNat + 7) ∧ u.lastResult = resultCode .needMore ∧ u.hdrPending = false ∧
      u.rxDuring = []

/-- A bounded RX_SOURCE (R10, R42): it takes the bytes it has room for, and a byte that finds it full changes how many
bytes it holds under no policy (log 5); a FEED changes nothing but the unread bytes and the model's overflow count. -/
def Obligations.FeedKeepsCapacity : Prop :=
  ∀ (s : State) (rest : List Action) (bytes : List Byte) (cap : Nat), s.script = .feed bytes :: rest →
    s.params.rxCap = some cap → s.rx.length ≤ cap →
    ∃ held count, step s = .next { s with script := rest, rx := held, overflowCount := count } ∧
      held.length = min cap (s.rx.length + bytes.length) ∧
      (s.rx.length + bytes.length ≤ cap → held = s.rx ++ bytes) ∧
      (s.params.rxOverflow = .dropNewest → held = (s.rx ++ bytes).take cap) ∧
      (s.params.rxOverflow = .dropOldest → held = (s.rx ++ bytes).drop (s.rx.length + bytes.length - cap))

/-- The HOST's write to `OBUF` (R20, R72) writes the bytes it names and no other byte of `OBUF`, and nothing else. -/
def Obligations.HostWritesObuf : Prop :=
  ∀ (s : State) (rest : List Action) (start : Nat) (bytes : List Byte), s.script = .writeObuf start bytes :: rest →
    start + bytes.length ≤ 255 →
    ∃ b, step s = .next { s with script := rest, obuf := b } ∧
      (∀ j, (h : j < bytes.length) → bufByte .obuf b (start + j) = bytes[j]) ∧
      ∀ i, (i < start ∨ start + bytes.length ≤ i) → bufByte .obuf b i = bufByte .obuf s.obuf i

/-- R44: `OBUF` has the indices 0..254. A HOST write that reaches past them stops the model (log 12). -/
def Obligations.HostWritePastObufFaults : Prop :=
  ∀ (s : State) (rest : List Action) (start : Nat) (bytes : List Byte), s.script = .writeObuf start bytes :: rest →
    bytes ≠ [] → 255 < start + bytes.length → step s = .fault (.bufferRange .obuf (max start 255))

/-! ## The checksum (40_checksum.md) -/

/-- R80: the definition and its equivalent forms give the same byte; sender and target may change places; the wide total
gives it too. -/
def Obligations.ChecksumForms : Prop :=
  ∀ (s t : Byte) (p : List Byte), p.length ≤ 255 →
    cksum s t p = BitVec.ofInt 8 (0 - ((((0x01 + s.toNat + t.toNat + 0x01 + p.length + byteSum p) % 256 : Nat) : Int) - 1)) ∧
    cksum s t p = BitVec.ofInt 8 (0 - (((0x01 + s.toNat + t.toNat + 0x01 + p.length + byteSum p : Nat) : Int) - 1)) ∧
    ((cksum s t p).toNat : Int) =
      (1 - (((0x01 + s.toNat + t.toNat + 0x01 + p.length + byteSum p) % 256 : Nat) : Int)) % 256 ∧
    cksum s t p = ~~~ BitVec.ofNat 8 (s.toNat + t.toNat + p.length + byteSum p) ∧
    (0x01 + t.toNat + s.toNat + 0x01 + p.length + byteSum p + (cksum s t p).toNat) % 256 = 0x01 ∧
    cksum s t p = cksum t s p

/-- The accumulator of R80's last paragraph, as an 8-bit fold: started at `s + t + L` its complement is the checksum;
started at `0x02 + s + t + L`, as the paragraph words it, its complement is the checksum less two, never the checksum
(log 16: the model follows the definition). -/
def Obligations.ChecksumAccumulator : Prop :=
  ∀ (s t : Byte) (p : List Byte),
    cksum s t p = ~~~ p.foldl (· + ·) (s + t + BitVec.ofNat 8 p.length) ∧
    ~~~ p.foldl (· + ·) (0x02#8 + s + t + BitVec.ofNat 8 p.length) = cksum s t p - 0x02#8

/-- R83: for an intact length the checksum changes exactly when the mod-256 sum of target, sender and payload does: so a
change of one byte is detected, and reordered payload bytes or exchanged addresses are not. -/
def Obligations.ChecksumDetection : Prop :=
  ∀ (s t s' t' : Byte) (p q : List Byte),
    (p.length = q.length →
      (cksum s t p = cksum s' t' q ↔
        (t.toNat + s.toNat + byteSum p) % 256 = (t'.toNat + s'.toNat + byteSum q) % 256)) ∧
    (s ≠ s' → cksum s t p ≠ cksum s' t p) ∧ (t ≠ t' → cksum s t p ≠ cksum s t' p) ∧
    (∀ (i : Nat) (v : Byte), (h : i < p.length) → v ≠ p[i] → cksum s t (p.set i v) ≠ cksum s t p) ∧
    (p.Perm q → cksum s t p = cksum s t q) ∧ cksum s t p = cksum t s p

/-- R81: CKSUM_GEN writes the checksum of the payload in `OBUF` and OK, and nothing else, for every operand; with the
rule's corner cases. -/
def Obligations.CksumGenResult : Prop :=
  decodeCommand 0x01#8 = .cksumGen ∧
  ∀ s : State,
    exec .cksumGen s = .next { s with
      ckResult := cksum s.argS s.argT ((List.range s.argL.toNat).map (bufByte .obuf s.obuf)), lastResult := 0x0#4 } ∧
    (s.argL = 0x00#8 → cksum s.argS s.argT (payload s) = ~~~ (s.argS + s.argT)) ∧
    (s.argL = 0x00#8 ∧ s.argS = 0x00#8 ∧ s.argT = 0x00#8 → cksum s.argS s.argT (payload s) = 0xFF#8) ∧
    ((s.argS.toNat + s.argT.toNat + s.argL.toNat + byteSum (payload s)) % 256 = 0xFF →
      cksum s.argS s.argT (payload s) = 0x00#8) ∧
    (s.argL = 0xFF#8 → payload s = (List.range 255).map (bufByte .obuf s.obuf)) ∧
    (s.argS = 0x02#8 ∧ s.argT = 0x01#8 ∧ payload s = [0x04#8] →
      cksumWide s.argS s.argT (payload s) % 256 = 0x0A ∧ cksum s.argS s.argT (payload s) = 0xF7#8)

/-- R82: CKSUM_CHECK writes the checksum, the match flag and OK, and nothing else; exactly one candidate matches; after
CKSUM_GEN on the same operands its result matches. -/
def Obligations.CksumCheckResult : Prop :=
  decodeCommand 0x02#8 = .cksumCheck ∧
  ∀ s : State,
    exec .cksumCheck s = .next { s with
      ckResult := cksum s.argS s.argT ((List.range s.argL.toNat).map (bufByte .obuf s.obuf)),
      chkMatch := decide (s.argC = cksum s.argS s.argT ((List.range s.argL.toNat).map (bufByte .obuf s.obuf))),
      lastResult := 0x0#4 } ∧
    (∃ c, ∀ c', (∃ t, exec .cksumCheck { s with argC := c' } = .next t ∧ t.chkMatch = true) ↔ c' = c) ∧
    (∃ g t, exec .cksumGen s = .next g ∧ exec .cksumCheck { g with argC := g.ckResult } = .next t ∧
      t.chkMatch = true) ∧
    (s.argS = 0x02#8 ∧ s.argT = 0x01#8 ∧ payload s = [0x04#8] →
      (∃ t, exec .cksumCheck { s with argC := 0xF7#8 } = .next t ∧ t.chkMatch = true) ∧
      (∃ t, exec .cksumCheck { s with argC := 0xF8#8 } = .next t ∧ t.chkMatch = false))

/-! ## The transmit encoder (42_tx_encoder.md) -/

/-- R121, R123: ENCODE_FRAME writes the checksum to `CK_RESULT`, and the `L + 7` bytes of the frame to TX with OK, or,
with `LISTEN_ONLY`, no byte with TX_SUPPRESSED; nothing else changes, for every operand; with the rule's example. -/
def Obligations.EncodeFrameResult : Prop :=
  decodeCommand 0x06#8 = .encodeFrame ∧
  ∀ (s : State) (p : List Byte) (k : Byte), p = (List.range s.argL.toNat).map (bufByte .obuf s.obuf) →
    k = cksum s.argS s.argT p →
    exec .encodeFrame s = .next
      (if s.listenOnly then { s with ckResult := k, lastResult := 0xA#4 }
       else { s with
        ckResult := k, lastResult := 0x0#4,
        tx := s.tx ++ ([0x01#8, s.argT, s.argS, 0x01#8, s.argL] ++ p ++ [k, 0x04#8]) }) ∧
    ([0x01#8, s.argT, s.argS, 0x01#8, s.argL] ++ p ++ [k, 0x04#8]).length = s.argL.toNat + 7 ∧
    (s.argT = 0x01#8 ∧ s.argS = 0x02#8 ∧ p = [0x04#8] → k = 0xF7#8)

/-- R43: only ENCODE_FRAME writes to TX. -/
def Obligations.OnlyEncodeFrameTransmits : Prop :=
  ∀ (i : Instr) (s t : State), i ≠ .encodeFrame → exec i s = .next t → t.tx = s.tx

/-- R125: the frame ENCODE_FRAME writes is delivered by a decoder at a header start, once and whole, and exactly its
`L + 7` bytes are consumed, whatever follows them. In one tick it is delivered too; the tick then stops for want of
a header where fewer than five bytes follow. -/
def Obligations.EncodeThenDecodeDelivers : Prop :=
  ∀ (e d : State) (rest : List Byte), e.argT ≤ 0x20#8 → e.argS ≤ 0x20#8 → e.listenOnly = false →
    d.hdrPending = false →
    ∃ e' w, exec .encodeFrame e = .next e' ∧ e'.tx = e.tx ++ w ∧ w.length = e.argL.toNat + 7 ∧
      (∃ d1 d2, exec .tryReadHeader { d with rx := w ++ rest } = .next d1 ∧ exec .tryReadMessage d1 = .next d2 ∧
        d2.events = d.events ++ [.deliver e.argT e.argS e.argL (payload e)] ∧ d2.rx = rest ∧
        d2.rxPos = d.rxPos + (e.argL.toNat + 7) ∧ d2.hdrPending = false) ∧
      (rest.length < 5 → d.rxDuring = [] → d.rxSupply = [] →
        ∃ d', exec .decodeTick { d with rx := w ++ rest } = .next d' ∧
          d'.events = d.events ++ [.deliver e.argT e.argS e.argL (payload e)] ∧ d'.rx = rest ∧
          d'.rxPos = d.rxPos + (e.argL.toNat + 7) ∧ d'.hdrPending = false ∧ d'.lastResult = resultCode .needMore)

/-! ## Reserved codes and results (30_encoding.md R66, 60_exceptions.md) -/

/-- R66: a reserved code writes ERR_CMD and makes one Diag, and changes nothing else; a step runs it so. -/
def Obligations.ReservedCommandResult : Prop :=
  (∀ (op : Byte) (s : State),
    exec (.reservedCmd op) s = .next { s with lastResult := 0x9#4, events := s.events ++ [.diag .errCmd] }) ∧
  ∀ (s : State) (op : Byte) (rest : List Action), (op = 0x00#8 ∨ 0x07#8 ≤ op) → s.script = .command op [] :: rest →
    s.rxDuring = [] →
    step s = .next { s with
      script := rest, cmdOp := op, lastResult := 0x9#4, events := s.events ++ [.diag .errCmd] }

/-- R130, R67: the codes of the results, no two alike, none reserved; the errors are those of 0x3..0x9. -/
def Obligations.ResultCodeTable : Prop :=
  (resultCode .ok = 0x0#4 ∧ resultCode .needMore = 0x1#4 ∧ resultCode .noHeader = 0x2#4 ∧
      resultCode .errStart = 0x3#4 ∧ resultCode .errMarker = 0x4#4 ∧ resultCode .errTarget = 0x5#4 ∧
      resultCode .errSender = 0x6#4 ∧ resultCode .errChecksum = 0x7#4 ∧ resultCode .errFooter = 0x8#4 ∧
      resultCode .errCmd = 0x9#4 ∧ resultCode .txSuppressed = 0xA#4) ∧
    (∀ r r' : Result, resultCode r = resultCode r' → r = r') ∧
    (∀ r : Result, resultCode r < 0xB#4 ∧ (r.isError = true ↔ 0x3#4 ≤ resultCode r ∧ resultCode r ≤ 0x9#4))

/-- R133: whatever an instruction does, it ends with one result, and it makes a Diag event of that result exactly when
the result is an error, after any deliveries; R24: `LAST_RESULT` holds that result. -/
def Obligations.DiagExactlyWhenError : Prop :=
  ∀ (i : Instr) (s t : State), exec i s = .next t → ∃ r ds, t.lastResult = resultCode r ∧
    ds.all isDelivery = true ∧ t.events = s.events ++ ds ++ (if r.isError then [.diag r] else [])

/-- R138, R112: no error is fatal: every instruction answers a next state from every state, a DECODE_TICK where RX_SOURCE
appends finitely many bytes during it. -/
def Obligations.EveryInstructionAnswers : Prop :=
  ∀ (i : Instr) (s : State), (i = .decodeTick → s.rxSupply = []) → ∃ t, exec i s = .next t

/-- R27, R28: the block never writes the command interface, the pin or the parameters; it never touches the moves to
come. -/
def Obligations.BlockNeverWritesHostRegisters : Prop :=
  ∀ (i : Instr) (s t : State), exec i s = .next t → t.cmdOp = s.cmdOp ∧ t.argT = s.argT ∧ t.argS = s.argS ∧
    t.argL = s.argL ∧ t.argC = s.argC ∧ t.obuf = s.obuf ∧ t.listenOnly = s.listenOnly ∧ t.params = s.params ∧
    t.script = s.script

/-- R28: `LISTEN_ONLY` has no effect on any receive command. -/
def Obligations.ReceiveIgnoresListenOnly : Prop :=
  ∀ (i : Instr) (s : State) (b : Bool), isReceive i = true →
    exec i (setListenOnly b s) = mapNext (setListenOnly b) (exec i s)

/-- R25, R26, R43: the receive instructions leave the checksum results and TX alone; with the statement before, that is
their frame outside the receive registers, `PBUF`, the stream, the events and `LAST_RESULT`. -/
def Obligations.ReceiveLeavesChecksumAndTx : Prop :=
  ∀ (i : Instr) (s t : State), isReceive i = true → exec i s = .next t →
    t.ckResult = s.ckResult ∧ t.chkMatch = s.chkMatch ∧ t.tx = s.tx

/-- R30, R41, R52: an instruction consumes a prefix of the unread bytes and of those that arrive after them during it, and
`RX_POS` rises by as many; only the receive instructions consume any, and only a DECODE_TICK lets any arrive between
its sub-steps. -/
def Obligations.ConsumesPrefixOfStream : Prop :=
  ∀ (i : Instr) (s : State), s.rxSupply = [] → (s.rxDuring = [] ∨ s.params.rxCap = none) →
    ∃ t k, exec i s = .next t ∧ k ≤ (unread s).length ∧ unread t = (unread s).drop k ∧ t.rxPos = s.rxPos + k ∧
      (isReceive i = false → k = 0) ∧ (i ≠ .decodeTick ∨ s.rxDuring = [] → t.rxDuring = s.rxDuring)

/-! ## The receive decoder (41_rx_decoder.md) -/

/-- R92: with none pending and five bytes there, a header is accepted exactly under the four conditions; then the header
registers take bytes 1, 2 and 4 and `HDR_PENDING` is 1, and nothing else changes but the stream and `LAST_RESULT`. -/
def Obligations.HeaderAcceptance : Prop :=
  ∀ (s : State) (b0 b1 b2 b3 b4 : Byte) (rest : List Byte), s.hdrPending = false →
    s.rx = b0 :: b1 :: b2 :: b3 :: b4 :: rest →
    (b0 = 0x01#8 ∧ b3 = 0x01#8 ∧ b1 ≤ 0x20#8 ∧ b2 ≤ 0x20#8 →
      exec .tryReadHeader s = .next { s with
        hdrTarget := b1, hdrSender := b2, hdrLength := b4, hdrPending := true, rx := rest, rxPos := s.rxPos + 5,
        lastResult := 0x0#4 }) ∧
    ((∃ t, exec .tryReadHeader s = .next t ∧ t.hdrPending = true) →
      b0 = 0x01#8 ∧ b3 = 0x01#8 ∧ b1 ≤ 0x20#8 ∧ b2 ≤ 0x20#8)

/-- R93 with the order of R91: a rejected header costs exactly its five bytes, `HDR_PENDING` stays 0, the header
registers and all else are unchanged but for the error's code and its Diag. -/
def Obligations.HeaderRejection : Prop :=
  ∀ (s : State) (b0 b1 b2 b3 b4 : Byte) (rest : List Byte), s.hdrPending = false →
    s.rx = b0 :: b1 :: b2 :: b3 :: b4 :: rest →
    ¬ (b0 = 0x01#8 ∧ b3 = 0x01#8 ∧ b1 ≤ 0x20#8 ∧ b2 ≤ 0x20#8) →
    ∀ e, e = (if b0 ≠ 0x01#8 then Result.errStart else if b3 ≠ 0x01#8 then .errMarker
      else if 0x20#8 < b1 then .errTarget else .errSender) →
    exec .tryReadHeader s = .next { s with
      rx := rest, rxPos := s.rxPos + 5, events := s.events ++ [.diag e], lastResult := resultCode e }

/-- R94: with a header pending TRY_READ_HEADER answers OK and changes nothing else, whatever is unread under the default
order of checks, and with five bytes unread under either. -/
def Obligations.HeaderReentry : Prop :=
  ∀ s : State, s.hdrPending = true → (s.params.hdrAvailFirst = false ∨ 5 ≤ s.rx.length) →
    exec .tryReadHeader s = .next { s with lastResult := 0x0#4 }

/-- R91, R95: with fewer than five bytes and none pending, or with the literal order of checks whatever is pending,
TRY_READ_HEADER answers NEED_MORE and changes nothing else. -/
def Obligations.HeaderDeferral : Prop :=
  ∀ s : State, s.rx.length < 5 → (s.hdrPending = false ∨ s.params.hdrAvailFirst = true) →
    exec .tryReadHeader s = .next { s with lastResult := 0x1#4 }

/-- R98 to R102: once `L + 2` bytes are there they are all consumed and `HDR_PENDING` is cleared, whatever the outcome; a
wrong checksum is reported before a wrong footer; exactly the valid frame is delivered, once. Nothing else changes
but `LAST_RESULT` and `PBUF`, which holds the payload after a delivery (R23) and is unspecified after a failure. -/
def Obligations.MessageJudgement : Prop :=
  ∀ (s : State) (p rest : List Byte) (c f : Byte), s.hdrPending = true → s.rx = p ++ c :: f :: rest →
    p.length = s.hdrLength.toNat →
    ∃ b, exec .tryReadMessage s = .next
      (if c ≠ cksum s.hdrSender s.hdrTarget p then { s with
          hdrPending := false, pbuf := b, rx := rest, rxPos := s.rxPos + (p.length + 2), lastResult := 0x7#4,
          events := s.events ++ [.diag .errChecksum] }
       else if f ≠ 0x04#8 then { s with
          hdrPending := false, pbuf := b, rx := rest, rxPos := s.rxPos + (p.length + 2), lastResult := 0x8#4,
          events := s.events ++ [.diag .errFooter] }
       else { s with
          hdrPending := false, pbuf := b, rx := rest, rxPos := s.rxPos + (p.length + 2), lastResult := 0x0#4,
          events := s.events ++ [.deliver s.hdrTarget s.hdrSender s.hdrLength p] }) ∧
      (c = cksum s.hdrSender s.hdrTarget p ∧ f = 0x04#8 →
        (∀ i, (h : i < p.length) → bufByte .pbuf b i = p[i]) ∧
        ∀ i, p.length ≤ i → bufByte .pbuf b i = bufByte .pbuf s.pbuf i)

/-- The model's own choice for a failed message (R23, I3; log 8): every byte of `PBUF` reads as a free value, of an
epoch that was not in use before. -/
def Obligations.FailedMessageLeavesPbufFree : Prop :=
  ∀ (s : State) (p rest : List Byte) (c f : Byte), s.hdrPending = true → s.rx = p ++ c :: f :: rest →
    p.length = s.hdrLength.toNat → (c ≠ cksum s.hdrSender s.hdrTarget p ∨ f ≠ 0x04#8) →
    ∃ t, exec .tryReadMessage s = .next t ∧
      ∀ i, bufByte .pbuf t.pbuf i = Config.unspecifiedByte .pbuf (s.pbuf.epoch + 1) i

/-- R103: with no header pending TRY_READ_MESSAGE answers NO_HEADER and changes nothing else; DECODE_TICK never
answers it. -/
def Obligations.MessageWithoutHeader : Prop :=
  (∀ s : State, s.hdrPending = false → exec .tryReadMessage s = .next { s with lastResult := 0x2#4 }) ∧
    ∀ s t : State, exec .decodeTick s = .next t → t.lastResult ≠ 0x2#4

/-- R104: with a header pending and too few bytes TRY_READ_MESSAGE answers NEED_MORE and changes nothing else. -/
def Obligations.MessageDeferral : Prop :=
  ∀ s : State, s.hdrPending = true → s.rx.length < s.hdrLength.toNat + 2 →
    exec .tryReadMessage s = .next { s with lastResult := 0x1#4 }

/-- FRAME_HEADER as an instruction (R62, R92; log 10): the unit at the head of the stream is consumed and accepted. -/
def Obligations.FrameHeaderUnit : Prop :=
  ∀ (s : State) (t sd l : Byte), s.hdrPending = false → 5 ≤ s.rx.length → t ≤ 0x20#8 → sd ≤ 0x20#8 →
    exec (.frameHeader t sd l) s = .next { s with
      hdrTarget := t, hdrSender := sd, hdrLength := l, hdrPending := true, rx := s.rx.drop 5, rxPos := s.rxPos + 5,
      lastResult := 0x0#4 }

/-- FRAME_TRAILER as an instruction (R63, R97; log 10): the payload before it and the unit are consumed; the frame is
delivered exactly when its checksum byte is the right one, and is ERR_CHECKSUM otherwise. -/
def Obligations.FrameTrailerUnit : Prop :=
  ∀ (s : State) (c : Byte) (p : List Byte), s.hdrPending = true → s.hdrLength.toNat + 2 ≤ s.rx.length →
    p = s.rx.take s.hdrLength.toNat →
    ∃ b, exec (.frameTrailer c) s = .next
      (if c = cksum s.hdrSender s.hdrTarget p then { s with
          hdrPending := false, pbuf := b, rx := s.rx.drop (s.hdrLength.toNat + 2),
          rxPos := s.rxPos + (s.hdrLength.toNat + 2), lastResult := 0x0#4,
          events := s.events ++ [.deliver s.hdrTarget s.hdrSender s.hdrLength p] }
       else { s with
          hdrPending := false, pbuf := b, rx := s.rx.drop (s.hdrLength.toNat + 2),
          rxPos := s.rxPos + (s.hdrLength.toNat + 2), lastResult := 0x7#4,
          events := s.events ++ [.diag .errChecksum] }) ∧
      (c = cksum s.hdrSender s.hdrTarget p →
        (∀ i, (h : i < p.length) → bufByte .pbuf b i = p[i]) ∧
        ∀ i, p.length ≤ i → bufByte .pbuf b i = bufByte .pbuf s.pbuf i)

/-- R111: DECODE_TICK is the loop of the two sub-steps: the first failing one ends it with its result; after a delivery
it goes on as a DECODE_TICK from there, to its end or without one (R164), RX_SOURCE's appends falling between sub-steps
(R52). -/
def Obligations.DecodeTickLoops : Prop :=
  decodeCommand 0x05#8 = .decodeTick ∧
  ∀ s : State, ∃ s1 r1, hdrStep s = .ok (s1, r1) ∧
    (r1 ≠ .ok → exec .decodeTick s = .next (setResult r1 s1)) ∧
    (r1 = .ok → ∃ s2 r2, msgStep (rxArrive s1) = .ok (s2, r2) ∧
      (r2 ≠ .ok → exec .decodeTick s = .next (setResult r2 s2)) ∧
      (r2 = .ok → exec .decodeTick s = exec .decodeTick (rxArrive s2)))

/-- R112, R115: while RX_SOURCE appends finitely many bytes a tick ends, however many come during it. A tick that ends
does so with NEED_MORE and no error, or with one of the six errors, its only one, after the frames it delivered. -/
def Obligations.DecodeTickEnds : Prop :=
  (∀ s : State, s.rxSupply = [] → ∃ t, exec .decodeTick s = .next t) ∧
  ∀ s t : State, exec .decodeTick s = .next t → ∃ ds, ds.all isDelivery = true ∧
    ((t.lastResult = resultCode .needMore ∧ t.events = s.events ++ ds) ∨
      ∃ e ∈ [Result.errStart, .errMarker, .errTarget, .errSender, .errChecksum, .errFooter],
        t.lastResult = resultCode e ∧ t.events = s.events ++ ds ++ [.diag e])

/-- R164, I18: the one stop of an instruction. A DECODE_TICK stops exactly when no number of iterations of its loop ends
it, so never where RX_SOURCE appends finitely many bytes. That it stops then, by this name, is the model's choice
(DESIGN CHOICE, log 3). -/
def Obligations.TickStopsExactlyWhenEndless : Prop :=
  ∀ s : State, (∀ f, exec .decodeTick s = .fault f → f = .tickUnfinished) ∧ (∀ r, exec .decodeTick s ≠ .refused r) ∧
    (exec .decodeTick s = .fault .tickUnfinished ↔ ∀ n, tickLoop n s = .error .tickUnfinished) ∧
    (s.rxSupply = [] → exec .decodeTick s ≠ .fault .tickUnfinished)

/-- R164: if RX_SOURCE keeps completing valid frames while a tick runs, the tick does not end. Whatever the payload, the
addresses, the order of checks and a capacity that holds what one sub-step asks for, and whether the tick is run as an
instruction or by a step. The supply as data is the model's choice (DESIGN CHOICE, log 3). -/
def Obligations.EndlessValidFramesNeverEndTick : Prop :=
  ∀ (s : State) (t sd : Byte) (p : List Byte), t ≤ 0x20#8 → sd ≤ 0x20#8 → p.length ≤ 255 → s.hdrPending = false →
    (∀ cap, s.params.rxCap = some cap → 5 ≤ cap ∧ p.length + 2 ≤ cap) → s.rx = frameBytes t sd p →
    s.rxSupply = frameBytes t sd p →
    (s.rxDuring = [] →
      (∀ n, tickLoop n s = .error .tickUnfinished) ∧ exec .decodeTick s = .fault .tickUnfinished) ∧
    ∀ rest, s.script = .command 0x05#8 [] :: rest → step s = .fault .tickUnfinished

/-- R23, R44: a tick that ends without a rejected message writes to `PBUF` only below the lengths of the payloads it
delivered: every byte at or above all of them reads as before. -/
def Obligations.TickPbufFrame : Prop :=
  ∀ s t : State, exec .decodeTick s = .next t → ∃ ds, t.events = s.events ++ ds ∧
    (t.lastResult ≠ resultCode .errChecksum → t.lastResult ≠ resultCode .errFooter →
      ∀ j, (∀ e ∈ ds, payloadExtent e ≤ j) → bufByte .pbuf t.pbuf j = bufByte .pbuf s.pbuf j)

/-- R60, R102, R114: what a tick delivers stood on the stream, the bytes that arrived during the tick among it, as whole
valid frames, one after the other from its head. What it consumed beyond them is nothing, fewer than five bytes being
there; a header still pending, its message not there; one header that breaks R92; or one message, after a header that
meets R92, that breaks R100 or R101. -/
def Obligations.TickDeliversFramesOfStream : Prop :=
  ∀ s : State, s.hdrPending = false → s.rxSupply = [] → (s.rxDuring = [] ∨ s.params.rxCap = none) →
    ∃ t ds left k, exec .decodeTick s = .next t ∧ ds.all isDelivery = true ∧ ds.all eventLegal = true ∧
      unread s = deliveredBytes ds ++ left ∧ unread t = left.drop k ∧ k ≤ left.length ∧
      t.rxPos = s.rxPos + (deliveredBytes ds).length + k ∧
      ((t.lastResult = resultCode .needMore ∧ t.events = s.events ++ ds ∧
          ((t.hdrPending = false ∧ k = 0 ∧ t.rx.length < 5) ∨
            (t.hdrPending = true ∧ k = 5 ∧ left.take 5 = headerBytes t.hdrTarget t.hdrSender t.hdrLength ∧
              t.hdrTarget ≤ 0x20#8 ∧ t.hdrSender ≤ 0x20#8 ∧ t.rx.length < t.hdrLength.toNat + 2))) ∨
        (∃ e, t.lastResult = resultCode e ∧ t.events = s.events ++ ds ++ [.diag e] ∧ t.hdrPending = false ∧
          ((∃ b0 b1 b2 b3 b4 more, left = b0 :: b1 :: b2 :: b3 :: b4 :: more ∧ k = 5 ∧
              ¬ (b0 = 0x01#8 ∧ b3 = 0x01#8 ∧ b1 ≤ 0x20#8 ∧ b2 ≤ 0x20#8) ∧
              e = (if b0 ≠ 0x01#8 then Result.errStart else if b3 ≠ 0x01#8 then .errMarker
                else if 0x20#8 < b1 then .errTarget else .errSender)) ∨
            (∃ p c f more, left = headerBytes t.hdrTarget t.hdrSender t.hdrLength ++ p ++ c :: f :: more ∧
              t.hdrTarget ≤ 0x20#8 ∧ t.hdrSender ≤ 0x20#8 ∧ p.length = t.hdrLength.toNat ∧
              k = t.hdrLength.toNat + 7 ∧
              ((c ≠ cksum t.hdrSender t.hdrTarget p ∧ e = .errChecksum) ∨
                (c = cksum t.hdrSender t.hdrTarget p ∧ f ≠ 0x04#8 ∧ e = .errFooter))))))

/-- R163, R138: ticks drain what is buffered: after at most one tick for every two bytes, and one more, a tick ends with
NEED_MORE. -/
def Obligations.TicksDrainStream : Prop :=
  ∀ s : State, s.rxDuring = [] → s.rxSupply = [] →
    ∃ n t, n ≤ s.rx.length / 2 ∧ ticks (n + 1) s = .next t ∧ t.lastResult = resultCode .needMore

/-- R52: bytes that come after a sub-step's availability check has passed only add to what remains unread. -/
def Obligations.LateArrivalOnlyAdds : Prop :=
  ∀ (i : Instr) (s : State) (bytes : List Byte), (i = .tryReadHeader ∨ i = .tryReadMessage) →
    ∃ t, exec i s = .next t ∧
      (t.lastResult ≠ resultCode .needMore →
        exec i { s with rx := s.rx ++ bytes } = .next { t with rx := t.rx ++ bytes })

/-- R116: under the default order of checks, with an unbounded RX_SOURCE, two ways of splitting one byte stream into
pieces, with any ticks between and any of the stream arriving during them, that both end in a tick with NEED_MORE after
all of it is there, leave the very same state: the same Deliver and Diag events in the same order, the same bytes
unread, the same header pending. -/
def Obligations.SplitStreamSameEvents : Prop :=
  ∀ (s u v t w : State) (ps qs : List (List Byte × List (List (List Byte)))), s.params.hdrAvailFirst = false →
    s.params.rxCap = none → s.rxDuring = [] → s.rxSupply = [] → streamOf ps = streamOf qs →
    feedPieces ps s = .next u → exec .decodeTick u = .next t → t.lastResult = resultCode .needMore →
    feedPieces qs s = .next v → exec .decodeTick v = .next w → w.lastResult = resultCode .needMore →
    t.events = w.events ∧ t = w

/-- R165, and why R116 fails under the literal order of checks: with a header pending and its message there, but fewer
than five bytes, a tick answers NEED_MORE and reads nothing; under the default order it reads the message. -/
def Obligations.AvailFirstHazard : Prop :=
  ∀ s : State, s.hdrPending = true → s.hdrLength.toNat + 2 ≤ s.rx.length → s.rx.length < 5 →
    (s.params.hdrAvailFirst = true → exec .decodeTick s = .next { s with lastResult := 0x1#4 }) ∧
    (s.params.hdrAvailFirst = false → s.rxDuring = [] → s.rxSupply = [] →
      ∃ t, exec .decodeTick s = .next t ∧ t.hdrPending = false ∧
        t.rxPos = s.rxPos + (s.hdrLength.toNat + 2))

/-! ## Invariants -/

/-- R31: a pending header's addresses are legal: no step breaks it, and it holds after reset. -/
def Obligations.PendingAddressesStayLegal : Prop :=
  pendingAddressesLegal State.reset = true ∧
    ∀ s t : State, pendingAddressesLegal s = true → step s = .next t → pendingAddressesLegal t = true

/-- Every step keeps the block's invariant: R31's bound, no reserved result code (R67), only events the rules allow (R45,
R133), RX_SOURCE within its capacity (R10), both buffers canonical with no index over 254 (R44), no command half
done (R9). -/
def Obligations.StepKeepsInvariant : Prop :=
  ∀ s t : State, blockInv s → step s = .next t → blockInv t

/-- The invariant holds after reset, with the values of logs 4, 8 and 9. -/
def Obligations.InvariantAtReset : Prop := blockInv State.reset

/-- Under the next move alone, whatever the state: a step stops only on an `OBUF` write past its end (R44, R138;
log 12), or in a tick that RX_SOURCE's endless supply does not let end (R164). -/
def Obligations.StepStopsOnlyPastObufOrInEndlessTick : Prop :=
  ∀ s : State, (∃ t, step s = .next t) ∨
    (∃ start bytes rest i, s.script = .writeObuf start bytes :: rest ∧ bytes ≠ [] ∧ 255 < start + bytes.length ∧
      step s = .fault (.bufferRange .obuf i)) ∨
    ∃ during rest, s.script = .command 0x05#8 during :: rest ∧ s.rxSupply ≠ [] ∧ step s = .fault .tickUnfinished

/-- R161, I19: a pending header that needs more bytes than RX_SOURCE can hold never completes: every tick answers
NEED_MORE with no event, and no step but a RESET ends the stall (under the policy `other` by log 5). A capacity of 257
or more rules the stall out. -/
def Obligations.StallLastsUntilReset : Prop :=
  (∀ (s : State) (cap : Nat), s.params.rxCap = some cap → 257 ≤ cap → stalled s = false) ∧
  (∀ s : State, stalled s = true →
    ∃ t, exec .decodeTick s = .next t ∧ t.lastResult = resultCode .needMore ∧ t.events = s.events) ∧
  ∀ s t : State, stalled s = true → step s = .next t →
    (∀ rest, s.script ≠ .reset :: rest) → stalled t = true
end

