-- ==== Sys2Proof/Laws/State.lean ====
section
/-! SUPPORT. What each update of the state does to each field. -/

namespace Sys2Proof.Machine

/-! ### `setResult` -/

@[simp] theorem setResult_hdrPending (r : Result) (s : State) : (setResult r s).hdrPending = s.hdrPending := rfl
@[simp] theorem setResult_hdrTarget (r : Result) (s : State) : (setResult r s).hdrTarget = s.hdrTarget := rfl
@[simp] theorem setResult_hdrSender (r : Result) (s : State) : (setResult r s).hdrSender = s.hdrSender := rfl
@[simp] theorem setResult_hdrLength (r : Result) (s : State) : (setResult r s).hdrLength = s.hdrLength := rfl
@[simp] theorem setResult_pbuf (r : Result) (s : State) : (setResult r s).pbuf = s.pbuf := rfl
@[simp] theorem setResult_lastResult (r : Result) (s : State) : (setResult r s).lastResult = resultCode r := rfl
@[simp] theorem setResult_ckResult (r : Result) (s : State) : (setResult r s).ckResult = s.ckResult := rfl
@[simp] theorem setResult_chkMatch (r : Result) (s : State) : (setResult r s).chkMatch = s.chkMatch := rfl
@[simp] theorem setResult_cmdOp (r : Result) (s : State) : (setResult r s).cmdOp = s.cmdOp := rfl
@[simp] theorem setResult_argT (r : Result) (s : State) : (setResult r s).argT = s.argT := rfl
@[simp] theorem setResult_argS (r : Result) (s : State) : (setResult r s).argS = s.argS := rfl
@[simp] theorem setResult_argL (r : Result) (s : State) : (setResult r s).argL = s.argL := rfl
@[simp] theorem setResult_argC (r : Result) (s : State) : (setResult r s).argC = s.argC := rfl
@[simp] theorem setResult_obuf (r : Result) (s : State) : (setResult r s).obuf = s.obuf := rfl
@[simp] theorem setResult_listenOnly (r : Result) (s : State) : (setResult r s).listenOnly = s.listenOnly := rfl
@[simp] theorem setResult_rxPos (r : Result) (s : State) : (setResult r s).rxPos = s.rxPos := rfl
@[simp] theorem setResult_rx (r : Result) (s : State) : (setResult r s).rx = s.rx := rfl
@[simp] theorem setResult_tx (r : Result) (s : State) : (setResult r s).tx = s.tx := rfl
@[simp] theorem setResult_events (r : Result) (s : State) : (setResult r s).events = s.events := rfl
@[simp] theorem setResult_params (r : Result) (s : State) : (setResult r s).params = s.params := rfl
@[simp] theorem setResult_rxDuring (r : Result) (s : State) : (setResult r s).rxDuring = s.rxDuring := rfl
@[simp] theorem setResult_rxSupply (r : Result) (s : State) : (setResult r s).rxSupply = s.rxSupply := rfl
@[simp] theorem setResult_overflowCount (r : Result) (s : State) : (setResult r s).overflowCount = s.overflowCount := rfl
@[simp] theorem setResult_script (r : Result) (s : State) : (setResult r s).script = s.script := rfl

/-! ### `setCkResult` -/

@[simp] theorem setCkResult_hdrPending (k : Byte) (s : State) : (setCkResult k s).hdrPending = s.hdrPending := rfl
@[simp] theorem setCkResult_hdrTarget (k : Byte) (s : State) : (setCkResult k s).hdrTarget = s.hdrTarget := rfl
@[simp] theorem setCkResult_hdrSender (k : Byte) (s : State) : (setCkResult k s).hdrSender = s.hdrSender := rfl
@[simp] theorem setCkResult_hdrLength (k : Byte) (s : State) : (setCkResult k s).hdrLength = s.hdrLength := rfl
@[simp] theorem setCkResult_pbuf (k : Byte) (s : State) : (setCkResult k s).pbuf = s.pbuf := rfl
@[simp] theorem setCkResult_lastResult (k : Byte) (s : State) : (setCkResult k s).lastResult = s.lastResult := rfl
@[simp] theorem setCkResult_ckResult (k : Byte) (s : State) : (setCkResult k s).ckResult = k := rfl
@[simp] theorem setCkResult_chkMatch (k : Byte) (s : State) : (setCkResult k s).chkMatch = s.chkMatch := rfl
@[simp] theorem setCkResult_cmdOp (k : Byte) (s : State) : (setCkResult k s).cmdOp = s.cmdOp := rfl
@[simp] theorem setCkResult_argT (k : Byte) (s : State) : (setCkResult k s).argT = s.argT := rfl
@[simp] theorem setCkResult_argS (k : Byte) (s : State) : (setCkResult k s).argS = s.argS := rfl
@[simp] theorem setCkResult_argL (k : Byte) (s : State) : (setCkResult k s).argL = s.argL := rfl
@[simp] theorem setCkResult_argC (k : Byte) (s : State) : (setCkResult k s).argC = s.argC := rfl
@[simp] theorem setCkResult_obuf (k : Byte) (s : State) : (setCkResult k s).obuf = s.obuf := rfl
@[simp] theorem setCkResult_listenOnly (k : Byte) (s : State) : (setCkResult k s).listenOnly = s.listenOnly := rfl
@[simp] theorem setCkResult_rxPos (k : Byte) (s : State) : (setCkResult k s).rxPos = s.rxPos := rfl
@[simp] theorem setCkResult_rx (k : Byte) (s : State) : (setCkResult k s).rx = s.rx := rfl
@[simp] theorem setCkResult_tx (k : Byte) (s : State) : (setCkResult k s).tx = s.tx := rfl
@[simp] theorem setCkResult_events (k : Byte) (s : State) : (setCkResult k s).events = s.events := rfl
@[simp] theorem setCkResult_params (k : Byte) (s : State) : (setCkResult k s).params = s.params := rfl
@[simp] theorem setCkResult_rxDuring (k : Byte) (s : State) : (setCkResult k s).rxDuring = s.rxDuring := rfl
@[simp] theorem setCkResult_rxSupply (k : Byte) (s : State) : (setCkResult k s).rxSupply = s.rxSupply := rfl
@[simp] theorem setCkResult_overflowCount (k : Byte) (s : State) : (setCkResult k s).overflowCount = s.overflowCount := rfl
@[simp] theorem setCkResult_script (k : Byte) (s : State) : (setCkResult k s).script = s.script := rfl

/-! ### `setChkMatch` -/

@[simp] theorem setChkMatch_hdrPending (b : Bool) (s : State) : (setChkMatch b s).hdrPending = s.hdrPending := rfl
@[simp] theorem setChkMatch_hdrTarget (b : Bool) (s : State) : (setChkMatch b s).hdrTarget = s.hdrTarget := rfl
@[simp] theorem setChkMatch_hdrSender (b : Bool) (s : State) : (setChkMatch b s).hdrSender = s.hdrSender := rfl
@[simp] theorem setChkMatch_hdrLength (b : Bool) (s : State) : (setChkMatch b s).hdrLength = s.hdrLength := rfl
@[simp] theorem setChkMatch_pbuf (b : Bool) (s : State) : (setChkMatch b s).pbuf = s.pbuf := rfl
@[simp] theorem setChkMatch_lastResult (b : Bool) (s : State) : (setChkMatch b s).lastResult = s.lastResult := rfl
@[simp] theorem setChkMatch_ckResult (b : Bool) (s : State) : (setChkMatch b s).ckResult = s.ckResult := rfl
@[simp] theorem setChkMatch_chkMatch (b : Bool) (s : State) : (setChkMatch b s).chkMatch = b := rfl
@[simp] theorem setChkMatch_cmdOp (b : Bool) (s : State) : (setChkMatch b s).cmdOp = s.cmdOp := rfl
@[simp] theorem setChkMatch_argT (b : Bool) (s : State) : (setChkMatch b s).argT = s.argT := rfl
@[simp] theorem setChkMatch_argS (b : Bool) (s : State) : (setChkMatch b s).argS = s.argS := rfl
@[simp] theorem setChkMatch_argL (b : Bool) (s : State) : (setChkMatch b s).argL = s.argL := rfl
@[simp] theorem setChkMatch_argC (b : Bool) (s : State) : (setChkMatch b s).argC = s.argC := rfl
@[simp] theorem setChkMatch_obuf (b : Bool) (s : State) : (setChkMatch b s).obuf = s.obuf := rfl
@[simp] theorem setChkMatch_listenOnly (b : Bool) (s : State) : (setChkMatch b s).listenOnly = s.listenOnly := rfl
@[simp] theorem setChkMatch_rxPos (b : Bool) (s : State) : (setChkMatch b s).rxPos = s.rxPos := rfl
@[simp] theorem setChkMatch_rx (b : Bool) (s : State) : (setChkMatch b s).rx = s.rx := rfl
@[simp] theorem setChkMatch_tx (b : Bool) (s : State) : (setChkMatch b s).tx = s.tx := rfl
@[simp] theorem setChkMatch_events (b : Bool) (s : State) : (setChkMatch b s).events = s.events := rfl
@[simp] theorem setChkMatch_params (b : Bool) (s : State) : (setChkMatch b s).params = s.params := rfl
@[simp] theorem setChkMatch_rxDuring (b : Bool) (s : State) : (setChkMatch b s).rxDuring = s.rxDuring := rfl
@[simp] theorem setChkMatch_rxSupply (b : Bool) (s : State) : (setChkMatch b s).rxSupply = s.rxSupply := rfl
@[simp] theorem setChkMatch_overflowCount (b : Bool) (s : State) : (setChkMatch b s).overflowCount = s.overflowCount := rfl
@[simp] theorem setChkMatch_script (b : Bool) (s : State) : (setChkMatch b s).script = s.script := rfl

/-! ### `loadHeader` -/

@[simp] theorem loadHeader_hdrPending (t sd l : Byte) (s : State) : (loadHeader t sd l s).hdrPending = true := rfl
@[simp] theorem loadHeader_hdrTarget (t sd l : Byte) (s : State) : (loadHeader t sd l s).hdrTarget = t := rfl
@[simp] theorem loadHeader_hdrSender (t sd l : Byte) (s : State) : (loadHeader t sd l s).hdrSender = sd := rfl
@[simp] theorem loadHeader_hdrLength (t sd l : Byte) (s : State) : (loadHeader t sd l s).hdrLength = l := rfl
@[simp] theorem loadHeader_pbuf (t sd l : Byte) (s : State) : (loadHeader t sd l s).pbuf = s.pbuf := rfl
@[simp] theorem loadHeader_lastResult (t sd l : Byte) (s : State) : (loadHeader t sd l s).lastResult = s.lastResult := rfl
@[simp] theorem loadHeader_ckResult (t sd l : Byte) (s : State) : (loadHeader t sd l s).ckResult = s.ckResult := rfl
@[simp] theorem loadHeader_chkMatch (t sd l : Byte) (s : State) : (loadHeader t sd l s).chkMatch = s.chkMatch := rfl
@[simp] theorem loadHeader_cmdOp (t sd l : Byte) (s : State) : (loadHeader t sd l s).cmdOp = s.cmdOp := rfl
@[simp] theorem loadHeader_argT (t sd l : Byte) (s : State) : (loadHeader t sd l s).argT = s.argT := rfl
@[simp] theorem loadHeader_argS (t sd l : Byte) (s : State) : (loadHeader t sd l s).argS = s.argS := rfl
@[simp] theorem loadHeader_argL (t sd l : Byte) (s : State) : (loadHeader t sd l s).argL = s.argL := rfl
@[simp] theorem loadHeader_argC (t sd l : Byte) (s : State) : (loadHeader t sd l s).argC = s.argC := rfl
@[simp] theorem loadHeader_obuf (t sd l : Byte) (s : State) : (loadHeader t sd l s).obuf = s.obuf := rfl
@[simp] theorem loadHeader_listenOnly (t sd l : Byte) (s : State) : (loadHeader t sd l s).listenOnly = s.listenOnly := rfl
@[simp] theorem loadHeader_rxPos (t sd l : Byte) (s : State) : (loadHeader t sd l s).rxPos = s.rxPos := rfl
@[simp] theorem loadHeader_rx (t sd l : Byte) (s : State) : (loadHeader t sd l s).rx = s.rx := rfl
@[simp] theorem loadHeader_tx (t sd l : Byte) (s : State) : (loadHeader t sd l s).tx = s.tx := rfl
@[simp] theorem loadHeader_events (t sd l : Byte) (s : State) : (loadHeader t sd l s).events = s.events := rfl
@[simp] theorem loadHeader_params (t sd l : Byte) (s : State) : (loadHeader t sd l s).params = s.params := rfl
@[simp] theorem loadHeader_rxDuring (t sd l : Byte) (s : State) : (loadHeader t sd l s).rxDuring = s.rxDuring := rfl
@[simp] theorem loadHeader_rxSupply (t sd l : Byte) (s : State) : (loadHeader t sd l s).rxSupply = s.rxSupply := rfl
@[simp] theorem loadHeader_overflowCount (t sd l : Byte) (s : State) : (loadHeader t sd l s).overflowCount = s.overflowCount := rfl
@[simp] theorem loadHeader_script (t sd l : Byte) (s : State) : (loadHeader t sd l s).script = s.script := rfl

/-! ### `clearPending` -/

@[simp] theorem clearPending_hdrPending (s : State) : (clearPending s).hdrPending = false := rfl
@[simp] theorem clearPending_hdrTarget (s : State) : (clearPending s).hdrTarget = s.hdrTarget := rfl
@[simp] theorem clearPending_hdrSender (s : State) : (clearPending s).hdrSender = s.hdrSender := rfl
@[simp] theorem clearPending_hdrLength (s : State) : (clearPending s).hdrLength = s.hdrLength := rfl
@[simp] theorem clearPending_pbuf (s : State) : (clearPending s).pbuf = s.pbuf := rfl
@[simp] theorem clearPending_lastResult (s : State) : (clearPending s).lastResult = s.lastResult := rfl
@[simp] theorem clearPending_ckResult (s : State) : (clearPending s).ckResult = s.ckResult := rfl
@[simp] theorem clearPending_chkMatch (s : State) : (clearPending s).chkMatch = s.chkMatch := rfl
@[simp] theorem clearPending_cmdOp (s : State) : (clearPending s).cmdOp = s.cmdOp := rfl
@[simp] theorem clearPending_argT (s : State) : (clearPending s).argT = s.argT := rfl
@[simp] theorem clearPending_argS (s : State) : (clearPending s).argS = s.argS := rfl
@[simp] theorem clearPending_argL (s : State) : (clearPending s).argL = s.argL := rfl
@[simp] theorem clearPending_argC (s : State) : (clearPending s).argC = s.argC := rfl
@[simp] theorem clearPending_obuf (s : State) : (clearPending s).obuf = s.obuf := rfl
@[simp] theorem clearPending_listenOnly (s : State) : (clearPending s).listenOnly = s.listenOnly := rfl
@[simp] theorem clearPending_rxPos (s : State) : (clearPending s).rxPos = s.rxPos := rfl
@[simp] theorem clearPending_rx (s : State) : (clearPending s).rx = s.rx := rfl
@[simp] theorem clearPending_tx (s : State) : (clearPending s).tx = s.tx := rfl
@[simp] theorem clearPending_events (s : State) : (clearPending s).events = s.events := rfl
@[simp] theorem clearPending_params (s : State) : (clearPending s).params = s.params := rfl
@[simp] theorem clearPending_rxDuring (s : State) : (clearPending s).rxDuring = s.rxDuring := rfl
@[simp] theorem clearPending_rxSupply (s : State) : (clearPending s).rxSupply = s.rxSupply := rfl
@[simp] theorem clearPending_overflowCount (s : State) : (clearPending s).overflowCount = s.overflowCount := rfl
@[simp] theorem clearPending_script (s : State) : (clearPending s).script = s.script := rfl

/-! ### `setPbuf` -/

@[simp] theorem setPbuf_hdrPending (b : Buffer) (s : State) : (setPbuf b s).hdrPending = s.hdrPending := rfl
@[simp] theorem setPbuf_hdrTarget (b : Buffer) (s : State) : (setPbuf b s).hdrTarget = s.hdrTarget := rfl
@[simp] theorem setPbuf_hdrSender (b : Buffer) (s : State) : (setPbuf b s).hdrSender = s.hdrSender := rfl
@[simp] theorem setPbuf_hdrLength (b : Buffer) (s : State) : (setPbuf b s).hdrLength = s.hdrLength := rfl
@[simp] theorem setPbuf_pbuf (b : Buffer) (s : State) : (setPbuf b s).pbuf = b := rfl
@[simp] theorem setPbuf_lastResult (b : Buffer) (s : State) : (setPbuf b s).lastResult = s.lastResult := rfl
@[simp] theorem setPbuf_ckResult (b : Buffer) (s : State) : (setPbuf b s).ckResult = s.ckResult := rfl
@[simp] theorem setPbuf_chkMatch (b : Buffer) (s : State) : (setPbuf b s).chkMatch = s.chkMatch := rfl
@[simp] theorem setPbuf_cmdOp (b : Buffer) (s : State) : (setPbuf b s).cmdOp = s.cmdOp := rfl
@[simp] theorem setPbuf_argT (b : Buffer) (s : State) : (setPbuf b s).argT = s.argT := rfl
@[simp] theorem setPbuf_argS (b : Buffer) (s : State) : (setPbuf b s).argS = s.argS := rfl
@[simp] theorem setPbuf_argL (b : Buffer) (s : State) : (setPbuf b s).argL = s.argL := rfl
@[simp] theorem setPbuf_argC (b : Buffer) (s : State) : (setPbuf b s).argC = s.argC := rfl
@[simp] theorem setPbuf_obuf (b : Buffer) (s : State) : (setPbuf b s).obuf = s.obuf := rfl
@[simp] theorem setPbuf_listenOnly (b : Buffer) (s : State) : (setPbuf b s).listenOnly = s.listenOnly := rfl
@[simp] theorem setPbuf_rxPos (b : Buffer) (s : State) : (setPbuf b s).rxPos = s.rxPos := rfl
@[simp] theorem setPbuf_rx (b : Buffer) (s : State) : (setPbuf b s).rx = s.rx := rfl
@[simp] theorem setPbuf_tx (b : Buffer) (s : State) : (setPbuf b s).tx = s.tx := rfl
@[simp] theorem setPbuf_events (b : Buffer) (s : State) : (setPbuf b s).events = s.events := rfl
@[simp] theorem setPbuf_params (b : Buffer) (s : State) : (setPbuf b s).params = s.params := rfl
@[simp] theorem setPbuf_rxDuring (b : Buffer) (s : State) : (setPbuf b s).rxDuring = s.rxDuring := rfl
@[simp] theorem setPbuf_rxSupply (b : Buffer) (s : State) : (setPbuf b s).rxSupply = s.rxSupply := rfl
@[simp] theorem setPbuf_overflowCount (b : Buffer) (s : State) : (setPbuf b s).overflowCount = s.overflowCount := rfl
@[simp] theorem setPbuf_script (b : Buffer) (s : State) : (setPbuf b s).script = s.script := rfl

/-! ### `setObuf` -/

@[simp] theorem setObuf_hdrPending (b : Buffer) (s : State) : (setObuf b s).hdrPending = s.hdrPending := rfl
@[simp] theorem setObuf_hdrTarget (b : Buffer) (s : State) : (setObuf b s).hdrTarget = s.hdrTarget := rfl
@[simp] theorem setObuf_hdrSender (b : Buffer) (s : State) : (setObuf b s).hdrSender = s.hdrSender := rfl
@[simp] theorem setObuf_hdrLength (b : Buffer) (s : State) : (setObuf b s).hdrLength = s.hdrLength := rfl
@[simp] theorem setObuf_pbuf (b : Buffer) (s : State) : (setObuf b s).pbuf = s.pbuf := rfl
@[simp] theorem setObuf_lastResult (b : Buffer) (s : State) : (setObuf b s).lastResult = s.lastResult := rfl
@[simp] theorem setObuf_ckResult (b : Buffer) (s : State) : (setObuf b s).ckResult = s.ckResult := rfl
@[simp] theorem setObuf_chkMatch (b : Buffer) (s : State) : (setObuf b s).chkMatch = s.chkMatch := rfl
@[simp] theorem setObuf_cmdOp (b : Buffer) (s : State) : (setObuf b s).cmdOp = s.cmdOp := rfl
@[simp] theorem setObuf_argT (b : Buffer) (s : State) : (setObuf b s).argT = s.argT := rfl
@[simp] theorem setObuf_argS (b : Buffer) (s : State) : (setObuf b s).argS = s.argS := rfl
@[simp] theorem setObuf_argL (b : Buffer) (s : State) : (setObuf b s).argL = s.argL := rfl
@[simp] theorem setObuf_argC (b : Buffer) (s : State) : (setObuf b s).argC = s.argC := rfl
@[simp] theorem setObuf_obuf (b : Buffer) (s : State) : (setObuf b s).obuf = b := rfl
@[simp] theorem setObuf_listenOnly (b : Buffer) (s : State) : (setObuf b s).listenOnly = s.listenOnly := rfl
@[simp] theorem setObuf_rxPos (b : Buffer) (s : State) : (setObuf b s).rxPos = s.rxPos := rfl
@[simp] theorem setObuf_rx (b : Buffer) (s : State) : (setObuf b s).rx = s.rx := rfl
@[simp] theorem setObuf_tx (b : Buffer) (s : State) : (setObuf b s).tx = s.tx := rfl
@[simp] theorem setObuf_events (b : Buffer) (s : State) : (setObuf b s).events = s.events := rfl
@[simp] theorem setObuf_params (b : Buffer) (s : State) : (setObuf b s).params = s.params := rfl
@[simp] theorem setObuf_rxDuring (b : Buffer) (s : State) : (setObuf b s).rxDuring = s.rxDuring := rfl
@[simp] theorem setObuf_rxSupply (b : Buffer) (s : State) : (setObuf b s).rxSupply = s.rxSupply := rfl
@[simp] theorem setObuf_overflowCount (b : Buffer) (s : State) : (setObuf b s).overflowCount = s.overflowCount := rfl
@[simp] theorem setObuf_script (b : Buffer) (s : State) : (setObuf b s).script = s.script := rfl

/-! ### `issue` -/

@[simp] theorem issue_hdrPending (op : Byte) (d : List (List Byte)) (s : State) : (issue op d s).hdrPending = s.hdrPending := rfl
@[simp] theorem issue_hdrTarget (op : Byte) (d : List (List Byte)) (s : State) : (issue op d s).hdrTarget = s.hdrTarget := rfl
@[simp] theorem issue_hdrSender (op : Byte) (d : List (List Byte)) (s : State) : (issue op d s).hdrSender = s.hdrSender := rfl
@[simp] theorem issue_hdrLength (op : Byte) (d : List (List Byte)) (s : State) : (issue op d s).hdrLength = s.hdrLength := rfl
@[simp] theorem issue_pbuf (op : Byte) (d : List (List Byte)) (s : State) : (issue op d s).pbuf = s.pbuf := rfl
@[simp] theorem issue_lastResult (op : Byte) (d : List (List Byte)) (s : State) : (issue op d s).lastResult = s.lastResult := rfl
@[simp] theorem issue_ckResult (op : Byte) (d : List (List Byte)) (s : State) : (issue op d s).ckResult = s.ckResult := rfl
@[simp] theorem issue_chkMatch (op : Byte) (d : List (List Byte)) (s : State) : (issue op d s).chkMatch = s.chkMatch := rfl
@[simp] theorem issue_cmdOp (op : Byte) (d : List (List Byte)) (s : State) : (issue op d s).cmdOp = op := rfl
@[simp] theorem issue_argT (op : Byte) (d : List (List Byte)) (s : State) : (issue op d s).argT = s.argT := rfl
@[simp] theorem issue_argS (op : Byte) (d : List (List Byte)) (s : State) : (issue op d s).argS = s.argS := rfl
@[simp] theorem issue_argL (op : Byte) (d : List (List Byte)) (s : State) : (issue op d s).argL = s.argL := rfl
@[simp] theorem issue_argC (op : Byte) (d : List (List Byte)) (s : State) : (issue op d s).argC = s.argC := rfl
@[simp] theorem issue_obuf (op : Byte) (d : List (List Byte)) (s : State) : (issue op d s).obuf = s.obuf := rfl
@[simp] theorem issue_listenOnly (op : Byte) (d : List (List Byte)) (s : State) : (issue op d s).listenOnly = s.listenOnly := rfl
@[simp] theorem issue_rxPos (op : Byte) (d : List (List Byte)) (s : State) : (issue op d s).rxPos = s.rxPos := rfl
@[simp] theorem issue_rx (op : Byte) (d : List (List Byte)) (s : State) : (issue op d s).rx = s.rx := rfl
@[simp] theorem issue_tx (op : Byte) (d : List (List Byte)) (s : State) : (issue op d s).tx = s.tx := rfl
@[simp] theorem issue_events (op : Byte) (d : List (List Byte)) (s : State) : (issue op d s).events = s.events := rfl
@[simp] theorem issue_params (op : Byte) (d : List (List Byte)) (s : State) : (issue op d s).params = s.params := rfl
@[simp] theorem issue_rxDuring (op : Byte) (d : List (List Byte)) (s : State) : (issue op d s).rxDuring = d := rfl
@[simp] theorem issue_rxSupply (op : Byte) (d : List (List Byte)) (s : State) : (issue op d s).rxSupply = s.rxSupply := rfl
@[simp] theorem issue_overflowCount (op : Byte) (d : List (List Byte)) (s : State) : (issue op d s).overflowCount = s.overflowCount := rfl
@[simp] theorem issue_script (op : Byte) (d : List (List Byte)) (s : State) : (issue op d s).script = s.script := rfl

/-! ### `setArgs` -/

@[simp] theorem setArgs_hdrPending (t sd l c : Option Byte) (s : State) : (setArgs t sd l c s).hdrPending = s.hdrPending := rfl
@[simp] theorem setArgs_hdrTarget (t sd l c : Option Byte) (s : State) : (setArgs t sd l c s).hdrTarget = s.hdrTarget := rfl
@[simp] theorem setArgs_hdrSender (t sd l c : Option Byte) (s : State) : (setArgs t sd l c s).hdrSender = s.hdrSender := rfl
@[simp] theorem setArgs_hdrLength (t sd l c : Option Byte) (s : State) : (setArgs t sd l c s).hdrLength = s.hdrLength := rfl
@[simp] theorem setArgs_pbuf (t sd l c : Option Byte) (s : State) : (setArgs t sd l c s).pbuf = s.pbuf := rfl
@[simp] theorem setArgs_lastResult (t sd l c : Option Byte) (s : State) : (setArgs t sd l c s).lastResult = s.lastResult := rfl
@[simp] theorem setArgs_ckResult (t sd l c : Option Byte) (s : State) : (setArgs t sd l c s).ckResult = s.ckResult := rfl
@[simp] theorem setArgs_chkMatch (t sd l c : Option Byte) (s : State) : (setArgs t sd l c s).chkMatch = s.chkMatch := rfl
@[simp] theorem setArgs_cmdOp (t sd l c : Option Byte) (s : State) : (setArgs t sd l c s).cmdOp = s.cmdOp := rfl
@[simp] theorem setArgs_argT (t sd l c : Option Byte) (s : State) : (setArgs t sd l c s).argT = t.getD s.argT := rfl
@[simp] theorem setArgs_argS (t sd l c : Option Byte) (s : State) : (setArgs t sd l c s).argS = sd.getD s.argS := rfl
@[simp] theorem setArgs_argL (t sd l c : Option Byte) (s : State) : (setArgs t sd l c s).argL = l.getD s.argL := rfl
@[simp] theorem setArgs_argC (t sd l c : Option Byte) (s : State) : (setArgs t sd l c s).argC = c.getD s.argC := rfl
@[simp] theorem setArgs_obuf (t sd l c : Option Byte) (s : State) : (setArgs t sd l c s).obuf = s.obuf := rfl
@[simp] theorem setArgs_listenOnly (t sd l c : Option Byte) (s : State) : (setArgs t sd l c s).listenOnly = s.listenOnly := rfl
@[simp] theorem setArgs_rxPos (t sd l c : Option Byte) (s : State) : (setArgs t sd l c s).rxPos = s.rxPos := rfl
@[simp] theorem setArgs_rx (t sd l c : Option Byte) (s : State) : (setArgs t sd l c s).rx = s.rx := rfl
@[simp] theorem setArgs_tx (t sd l c : Option Byte) (s : State) : (setArgs t sd l c s).tx = s.tx := rfl
@[simp] theorem setArgs_events (t sd l c : Option Byte) (s : State) : (setArgs t sd l c s).events = s.events := rfl
@[simp] theorem setArgs_params (t sd l c : Option Byte) (s : State) : (setArgs t sd l c s).params = s.params := rfl
@[simp] theorem setArgs_rxDuring (t sd l c : Option Byte) (s : State) : (setArgs t sd l c s).rxDuring = s.rxDuring := rfl
@[simp] theorem setArgs_rxSupply (t sd l c : Option Byte) (s : State) : (setArgs t sd l c s).rxSupply = s.rxSupply := rfl
@[simp] theorem setArgs_overflowCount (t sd l c : Option Byte) (s : State) : (setArgs t sd l c s).overflowCount = s.overflowCount := rfl
@[simp] theorem setArgs_script (t sd l c : Option Byte) (s : State) : (setArgs t sd l c s).script = s.script := rfl

/-! ### `setListenOnly` -/

@[simp] theorem setListenOnly_hdrPending (b : Bool) (s : State) : (setListenOnly b s).hdrPending = s.hdrPending := rfl
@[simp] theorem setListenOnly_hdrTarget (b : Bool) (s : State) : (setListenOnly b s).hdrTarget = s.hdrTarget := rfl
@[simp] theorem setListenOnly_hdrSender (b : Bool) (s : State) : (setListenOnly b s).hdrSender = s.hdrSender := rfl
@[simp] theorem setListenOnly_hdrLength (b : Bool) (s : State) : (setListenOnly b s).hdrLength = s.hdrLength := rfl
@[simp] theorem setListenOnly_pbuf (b : Bool) (s : State) : (setListenOnly b s).pbuf = s.pbuf := rfl
@[simp] theorem setListenOnly_lastResult (b : Bool) (s : State) : (setListenOnly b s).lastResult = s.lastResult := rfl
@[simp] theorem setListenOnly_ckResult (b : Bool) (s : State) : (setListenOnly b s).ckResult = s.ckResult := rfl
@[simp] theorem setListenOnly_chkMatch (b : Bool) (s : State) : (setListenOnly b s).chkMatch = s.chkMatch := rfl
@[simp] theorem setListenOnly_cmdOp (b : Bool) (s : State) : (setListenOnly b s).cmdOp = s.cmdOp := rfl
@[simp] theorem setListenOnly_argT (b : Bool) (s : State) : (setListenOnly b s).argT = s.argT := rfl
@[simp] theorem setListenOnly_argS (b : Bool) (s : State) : (setListenOnly b s).argS = s.argS := rfl
@[simp] theorem setListenOnly_argL (b : Bool) (s : State) : (setListenOnly b s).argL = s.argL := rfl
@[simp] theorem setListenOnly_argC (b : Bool) (s : State) : (setListenOnly b s).argC = s.argC := rfl
@[simp] theorem setListenOnly_obuf (b : Bool) (s : State) : (setListenOnly b s).obuf = s.obuf := rfl
@[simp] theorem setListenOnly_listenOnly (b : Bool) (s : State) : (setListenOnly b s).listenOnly = b := rfl
@[simp] theorem setListenOnly_rxPos (b : Bool) (s : State) : (setListenOnly b s).rxPos = s.rxPos := rfl
@[simp] theorem setListenOnly_rx (b : Bool) (s : State) : (setListenOnly b s).rx = s.rx := rfl
@[simp] theorem setListenOnly_tx (b : Bool) (s : State) : (setListenOnly b s).tx = s.tx := rfl
@[simp] theorem setListenOnly_events (b : Bool) (s : State) : (setListenOnly b s).events = s.events := rfl
@[simp] theorem setListenOnly_params (b : Bool) (s : State) : (setListenOnly b s).params = s.params := rfl
@[simp] theorem setListenOnly_rxDuring (b : Bool) (s : State) : (setListenOnly b s).rxDuring = s.rxDuring := rfl
@[simp] theorem setListenOnly_rxSupply (b : Bool) (s : State) : (setListenOnly b s).rxSupply = s.rxSupply := rfl
@[simp] theorem setListenOnly_overflowCount (b : Bool) (s : State) : (setListenOnly b s).overflowCount = s.overflowCount := rfl
@[simp] theorem setListenOnly_script (b : Bool) (s : State) : (setListenOnly b s).script = s.script := rfl

/-! ### `setSupply` -/

@[simp] theorem setSupply_hdrPending (bs : List Byte) (s : State) : (setSupply bs s).hdrPending = s.hdrPending := rfl
@[simp] theorem setSupply_hdrTarget (bs : List Byte) (s : State) : (setSupply bs s).hdrTarget = s.hdrTarget := rfl
@[simp] theorem setSupply_hdrSender (bs : List Byte) (s : State) : (setSupply bs s).hdrSender = s.hdrSender := rfl
@[simp] theorem setSupply_hdrLength (bs : List Byte) (s : State) : (setSupply bs s).hdrLength = s.hdrLength := rfl
@[simp] theorem setSupply_pbuf (bs : List Byte) (s : State) : (setSupply bs s).pbuf = s.pbuf := rfl
@[simp] theorem setSupply_lastResult (bs : List Byte) (s : State) : (setSupply bs s).lastResult = s.lastResult := rfl
@[simp] theorem setSupply_ckResult (bs : List Byte) (s : State) : (setSupply bs s).ckResult = s.ckResult := rfl
@[simp] theorem setSupply_chkMatch (bs : List Byte) (s : State) : (setSupply bs s).chkMatch = s.chkMatch := rfl
@[simp] theorem setSupply_cmdOp (bs : List Byte) (s : State) : (setSupply bs s).cmdOp = s.cmdOp := rfl
@[simp] theorem setSupply_argT (bs : List Byte) (s : State) : (setSupply bs s).argT = s.argT := rfl
@[simp] theorem setSupply_argS (bs : List Byte) (s : State) : (setSupply bs s).argS = s.argS := rfl
@[simp] theorem setSupply_argL (bs : List Byte) (s : State) : (setSupply bs s).argL = s.argL := rfl
@[simp] theorem setSupply_argC (bs : List Byte) (s : State) : (setSupply bs s).argC = s.argC := rfl
@[simp] theorem setSupply_obuf (bs : List Byte) (s : State) : (setSupply bs s).obuf = s.obuf := rfl
@[simp] theorem setSupply_listenOnly (bs : List Byte) (s : State) : (setSupply bs s).listenOnly = s.listenOnly := rfl
@[simp] theorem setSupply_rxPos (bs : List Byte) (s : State) : (setSupply bs s).rxPos = s.rxPos := rfl
@[simp] theorem setSupply_rx (bs : List Byte) (s : State) : (setSupply bs s).rx = s.rx := rfl
@[simp] theorem setSupply_tx (bs : List Byte) (s : State) : (setSupply bs s).tx = s.tx := rfl
@[simp] theorem setSupply_events (bs : List Byte) (s : State) : (setSupply bs s).events = s.events := rfl
@[simp] theorem setSupply_params (bs : List Byte) (s : State) : (setSupply bs s).params = s.params := rfl
@[simp] theorem setSupply_rxDuring (bs : List Byte) (s : State) : (setSupply bs s).rxDuring = s.rxDuring := rfl
@[simp] theorem setSupply_rxSupply (bs : List Byte) (s : State) : (setSupply bs s).rxSupply = bs := rfl
@[simp] theorem setSupply_overflowCount (bs : List Byte) (s : State) : (setSupply bs s).overflowCount = s.overflowCount := rfl
@[simp] theorem setSupply_script (bs : List Byte) (s : State) : (setSupply bs s).script = s.script := rfl

/-! ### `setScript` -/

@[simp] theorem setScript_hdrPending (as : List Action) (s : State) : (setScript as s).hdrPending = s.hdrPending := rfl
@[simp] theorem setScript_hdrTarget (as : List Action) (s : State) : (setScript as s).hdrTarget = s.hdrTarget := rfl
@[simp] theorem setScript_hdrSender (as : List Action) (s : State) : (setScript as s).hdrSender = s.hdrSender := rfl
@[simp] theorem setScript_hdrLength (as : List Action) (s : State) : (setScript as s).hdrLength = s.hdrLength := rfl
@[simp] theorem setScript_pbuf (as : List Action) (s : State) : (setScript as s).pbuf = s.pbuf := rfl
@[simp] theorem setScript_lastResult (as : List Action) (s : State) : (setScript as s).lastResult = s.lastResult := rfl
@[simp] theorem setScript_ckResult (as : List Action) (s : State) : (setScript as s).ckResult = s.ckResult := rfl
@[simp] theorem setScript_chkMatch (as : List Action) (s : State) : (setScript as s).chkMatch = s.chkMatch := rfl
@[simp] theorem setScript_cmdOp (as : List Action) (s : State) : (setScript as s).cmdOp = s.cmdOp := rfl
@[simp] theorem setScript_argT (as : List Action) (s : State) : (setScript as s).argT = s.argT := rfl
@[simp] theorem setScript_argS (as : List Action) (s : State) : (setScript as s).argS = s.argS := rfl
@[simp] theorem setScript_argL (as : List Action) (s : State) : (setScript as s).argL = s.argL := rfl
@[simp] theorem setScript_argC (as : List Action) (s : State) : (setScript as s).argC = s.argC := rfl
@[simp] theorem setScript_obuf (as : List Action) (s : State) : (setScript as s).obuf = s.obuf := rfl
@[simp] theorem setScript_listenOnly (as : List Action) (s : State) : (setScript as s).listenOnly = s.listenOnly := rfl
@[simp] theorem setScript_rxPos (as : List Action) (s : State) : (setScript as s).rxPos = s.rxPos := rfl
@[simp] theorem setScript_rx (as : List Action) (s : State) : (setScript as s).rx = s.rx := rfl
@[simp] theorem setScript_tx (as : List Action) (s : State) : (setScript as s).tx = s.tx := rfl
@[simp] theorem setScript_events (as : List Action) (s : State) : (setScript as s).events = s.events := rfl
@[simp] theorem setScript_params (as : List Action) (s : State) : (setScript as s).params = s.params := rfl
@[simp] theorem setScript_rxDuring (as : List Action) (s : State) : (setScript as s).rxDuring = s.rxDuring := rfl
@[simp] theorem setScript_rxSupply (as : List Action) (s : State) : (setScript as s).rxSupply = s.rxSupply := rfl
@[simp] theorem setScript_overflowCount (as : List Action) (s : State) : (setScript as s).overflowCount = s.overflowCount := rfl
@[simp] theorem setScript_script (as : List Action) (s : State) : (setScript as s).script = as := rfl

/-! ### `rxAdvance` -/

@[simp] theorem rxAdvance_hdrPending (n : Nat) (s : State) : (rxAdvance n s).hdrPending = s.hdrPending := rfl
@[simp] theorem rxAdvance_hdrTarget (n : Nat) (s : State) : (rxAdvance n s).hdrTarget = s.hdrTarget := rfl
@[simp] theorem rxAdvance_hdrSender (n : Nat) (s : State) : (rxAdvance n s).hdrSender = s.hdrSender := rfl
@[simp] theorem rxAdvance_hdrLength (n : Nat) (s : State) : (rxAdvance n s).hdrLength = s.hdrLength := rfl
@[simp] theorem rxAdvance_pbuf (n : Nat) (s : State) : (rxAdvance n s).pbuf = s.pbuf := rfl
@[simp] theorem rxAdvance_lastResult (n : Nat) (s : State) : (rxAdvance n s).lastResult = s.lastResult := rfl
@[simp] theorem rxAdvance_ckResult (n : Nat) (s : State) : (rxAdvance n s).ckResult = s.ckResult := rfl
@[simp] theorem rxAdvance_chkMatch (n : Nat) (s : State) : (rxAdvance n s).chkMatch = s.chkMatch := rfl
@[simp] theorem rxAdvance_cmdOp (n : Nat) (s : State) : (rxAdvance n s).cmdOp = s.cmdOp := rfl
@[simp] theorem rxAdvance_argT (n : Nat) (s : State) : (rxAdvance n s).argT = s.argT := rfl
@[simp] theorem rxAdvance_argS (n : Nat) (s : State) : (rxAdvance n s).argS = s.argS := rfl
@[simp] theorem rxAdvance_argL (n : Nat) (s : State) : (rxAdvance n s).argL = s.argL := rfl
@[simp] theorem rxAdvance_argC (n : Nat) (s : State) : (rxAdvance n s).argC = s.argC := rfl
@[simp] theorem rxAdvance_obuf (n : Nat) (s : State) : (rxAdvance n s).obuf = s.obuf := rfl
@[simp] theorem rxAdvance_listenOnly (n : Nat) (s : State) : (rxAdvance n s).listenOnly = s.listenOnly := rfl
@[simp] theorem rxAdvance_rxPos (n : Nat) (s : State) : (rxAdvance n s).rxPos = s.rxPos + n := rfl
@[simp] theorem rxAdvance_rx (n : Nat) (s : State) : (rxAdvance n s).rx = s.rx.drop n := rfl
@[simp] theorem rxAdvance_tx (n : Nat) (s : State) : (rxAdvance n s).tx = s.tx := rfl
@[simp] theorem rxAdvance_events (n : Nat) (s : State) : (rxAdvance n s).events = s.events := rfl
@[simp] theorem rxAdvance_params (n : Nat) (s : State) : (rxAdvance n s).params = s.params := rfl
@[simp] theorem rxAdvance_rxDuring (n : Nat) (s : State) : (rxAdvance n s).rxDuring = s.rxDuring := rfl
@[simp] theorem rxAdvance_rxSupply (n : Nat) (s : State) : (rxAdvance n s).rxSupply = s.rxSupply := rfl
@[simp] theorem rxAdvance_overflowCount (n : Nat) (s : State) : (rxAdvance n s).overflowCount = s.overflowCount := rfl
@[simp] theorem rxAdvance_script (n : Nat) (s : State) : (rxAdvance n s).script = s.script := rfl

/-! ### `txWrite` -/

@[simp] theorem txWrite_hdrPending (v : Byte) (s : State) : (txWrite v s).hdrPending = s.hdrPending := rfl
@[simp] theorem txWrite_hdrTarget (v : Byte) (s : State) : (txWrite v s).hdrTarget = s.hdrTarget := rfl
@[simp] theorem txWrite_hdrSender (v : Byte) (s : State) : (txWrite v s).hdrSender = s.hdrSender := rfl
@[simp] theorem txWrite_hdrLength (v : Byte) (s : State) : (txWrite v s).hdrLength = s.hdrLength := rfl
@[simp] theorem txWrite_pbuf (v : Byte) (s : State) : (txWrite v s).pbuf = s.pbuf := rfl
@[simp] theorem txWrite_lastResult (v : Byte) (s : State) : (txWrite v s).lastResult = s.lastResult := rfl
@[simp] theorem txWrite_ckResult (v : Byte) (s : State) : (txWrite v s).ckResult = s.ckResult := rfl
@[simp] theorem txWrite_chkMatch (v : Byte) (s : State) : (txWrite v s).chkMatch = s.chkMatch := rfl
@[simp] theorem txWrite_cmdOp (v : Byte) (s : State) : (txWrite v s).cmdOp = s.cmdOp := rfl
@[simp] theorem txWrite_argT (v : Byte) (s : State) : (txWrite v s).argT = s.argT := rfl
@[simp] theorem txWrite_argS (v : Byte) (s : State) : (txWrite v s).argS = s.argS := rfl
@[simp] theorem txWrite_argL (v : Byte) (s : State) : (txWrite v s).argL = s.argL := rfl
@[simp] theorem txWrite_argC (v : Byte) (s : State) : (txWrite v s).argC = s.argC := rfl
@[simp] theorem txWrite_obuf (v : Byte) (s : State) : (txWrite v s).obuf = s.obuf := rfl
@[simp] theorem txWrite_listenOnly (v : Byte) (s : State) : (txWrite v s).listenOnly = s.listenOnly := rfl
@[simp] theorem txWrite_rxPos (v : Byte) (s : State) : (txWrite v s).rxPos = s.rxPos := rfl
@[simp] theorem txWrite_rx (v : Byte) (s : State) : (txWrite v s).rx = s.rx := rfl
@[simp] theorem txWrite_tx (v : Byte) (s : State) : (txWrite v s).tx = s.tx ++ [v] := rfl
@[simp] theorem txWrite_events (v : Byte) (s : State) : (txWrite v s).events = s.events := rfl
@[simp] theorem txWrite_params (v : Byte) (s : State) : (txWrite v s).params = s.params := rfl
@[simp] theorem txWrite_rxDuring (v : Byte) (s : State) : (txWrite v s).rxDuring = s.rxDuring := rfl
@[simp] theorem txWrite_rxSupply (v : Byte) (s : State) : (txWrite v s).rxSupply = s.rxSupply := rfl
@[simp] theorem txWrite_overflowCount (v : Byte) (s : State) : (txWrite v s).overflowCount = s.overflowCount := rfl
@[simp] theorem txWrite_script (v : Byte) (s : State) : (txWrite v s).script = s.script := rfl

/-! ### `emit` -/

@[simp] theorem emit_hdrPending (e : Event) (s : State) : (emit e s).hdrPending = s.hdrPending := rfl
@[simp] theorem emit_hdrTarget (e : Event) (s : State) : (emit e s).hdrTarget = s.hdrTarget := rfl
@[simp] theorem emit_hdrSender (e : Event) (s : State) : (emit e s).hdrSender = s.hdrSender := rfl
@[simp] theorem emit_hdrLength (e : Event) (s : State) : (emit e s).hdrLength = s.hdrLength := rfl
@[simp] theorem emit_pbuf (e : Event) (s : State) : (emit e s).pbuf = s.pbuf := rfl
@[simp] theorem emit_lastResult (e : Event) (s : State) : (emit e s).lastResult = s.lastResult := rfl
@[simp] theorem emit_ckResult (e : Event) (s : State) : (emit e s).ckResult = s.ckResult := rfl
@[simp] theorem emit_chkMatch (e : Event) (s : State) : (emit e s).chkMatch = s.chkMatch := rfl
@[simp] theorem emit_cmdOp (e : Event) (s : State) : (emit e s).cmdOp = s.cmdOp := rfl
@[simp] theorem emit_argT (e : Event) (s : State) : (emit e s).argT = s.argT := rfl
@[simp] theorem emit_argS (e : Event) (s : State) : (emit e s).argS = s.argS := rfl
@[simp] theorem emit_argL (e : Event) (s : State) : (emit e s).argL = s.argL := rfl
@[simp] theorem emit_argC (e : Event) (s : State) : (emit e s).argC = s.argC := rfl
@[simp] theorem emit_obuf (e : Event) (s : State) : (emit e s).obuf = s.obuf := rfl
@[simp] theorem emit_listenOnly (e : Event) (s : State) : (emit e s).listenOnly = s.listenOnly := rfl
@[simp] theorem emit_rxPos (e : Event) (s : State) : (emit e s).rxPos = s.rxPos := rfl
@[simp] theorem emit_rx (e : Event) (s : State) : (emit e s).rx = s.rx := rfl
@[simp] theorem emit_tx (e : Event) (s : State) : (emit e s).tx = s.tx := rfl
@[simp] theorem emit_events (e : Event) (s : State) : (emit e s).events = s.events ++ [e] := rfl
@[simp] theorem emit_params (e : Event) (s : State) : (emit e s).params = s.params := rfl
@[simp] theorem emit_rxDuring (e : Event) (s : State) : (emit e s).rxDuring = s.rxDuring := rfl
@[simp] theorem emit_rxSupply (e : Event) (s : State) : (emit e s).rxSupply = s.rxSupply := rfl
@[simp] theorem emit_overflowCount (e : Event) (s : State) : (emit e s).overflowCount = s.overflowCount := rfl
@[simp] theorem emit_script (e : Event) (s : State) : (emit e s).script = s.script := rfl

/-! ### `raise` -/

@[simp] theorem raise_hdrPending (e : Result) (s : State) : (raise e s).hdrPending = s.hdrPending := rfl
@[simp] theorem raise_hdrTarget (e : Result) (s : State) : (raise e s).hdrTarget = s.hdrTarget := rfl
@[simp] theorem raise_hdrSender (e : Result) (s : State) : (raise e s).hdrSender = s.hdrSender := rfl
@[simp] theorem raise_hdrLength (e : Result) (s : State) : (raise e s).hdrLength = s.hdrLength := rfl
@[simp] theorem raise_pbuf (e : Result) (s : State) : (raise e s).pbuf = s.pbuf := rfl
@[simp] theorem raise_lastResult (e : Result) (s : State) : (raise e s).lastResult = resultCode e := rfl
@[simp] theorem raise_ckResult (e : Result) (s : State) : (raise e s).ckResult = s.ckResult := rfl
@[simp] theorem raise_chkMatch (e : Result) (s : State) : (raise e s).chkMatch = s.chkMatch := rfl
@[simp] theorem raise_cmdOp (e : Result) (s : State) : (raise e s).cmdOp = s.cmdOp := rfl
@[simp] theorem raise_argT (e : Result) (s : State) : (raise e s).argT = s.argT := rfl
@[simp] theorem raise_argS (e : Result) (s : State) : (raise e s).argS = s.argS := rfl
@[simp] theorem raise_argL (e : Result) (s : State) : (raise e s).argL = s.argL := rfl
@[simp] theorem raise_argC (e : Result) (s : State) : (raise e s).argC = s.argC := rfl
@[simp] theorem raise_obuf (e : Result) (s : State) : (raise e s).obuf = s.obuf := rfl
@[simp] theorem raise_listenOnly (e : Result) (s : State) : (raise e s).listenOnly = s.listenOnly := rfl
@[simp] theorem raise_rxPos (e : Result) (s : State) : (raise e s).rxPos = s.rxPos := rfl
@[simp] theorem raise_rx (e : Result) (s : State) : (raise e s).rx = s.rx := rfl
@[simp] theorem raise_tx (e : Result) (s : State) : (raise e s).tx = s.tx := rfl
@[simp] theorem raise_events (e : Result) (s : State) : (raise e s).events = s.events ++ [.diag e] := rfl
@[simp] theorem raise_params (e : Result) (s : State) : (raise e s).params = s.params := rfl
@[simp] theorem raise_rxDuring (e : Result) (s : State) : (raise e s).rxDuring = s.rxDuring := rfl
@[simp] theorem raise_rxSupply (e : Result) (s : State) : (raise e s).rxSupply = s.rxSupply := rfl
@[simp] theorem raise_overflowCount (e : Result) (s : State) : (raise e s).overflowCount = s.overflowCount := rfl
@[simp] theorem raise_script (e : Result) (s : State) : (raise e s).script = s.script := rfl

/-! ### `resetBlock` -/

@[simp] theorem resetBlock_hdrPending (s : State) : (resetBlock s).hdrPending = false := rfl
@[simp] theorem resetBlock_hdrTarget (s : State) : (resetBlock s).hdrTarget = 0x00#8 := rfl
@[simp] theorem resetBlock_hdrSender (s : State) : (resetBlock s).hdrSender = 0x00#8 := rfl
@[simp] theorem resetBlock_hdrLength (s : State) : (resetBlock s).hdrLength = 0x00#8 := rfl
@[simp] theorem resetBlock_pbuf (s : State) : (resetBlock s).pbuf = bufForget s.pbuf := rfl
@[simp] theorem resetBlock_lastResult (s : State) : (resetBlock s).lastResult = resultCode .ok := rfl
@[simp] theorem resetBlock_ckResult (s : State) : (resetBlock s).ckResult = 0x00#8 := rfl
@[simp] theorem resetBlock_chkMatch (s : State) : (resetBlock s).chkMatch = false := rfl
@[simp] theorem resetBlock_cmdOp (s : State) : (resetBlock s).cmdOp = 0x00#8 := rfl
@[simp] theorem resetBlock_argT (s : State) : (resetBlock s).argT = 0x00#8 := rfl
@[simp] theorem resetBlock_argS (s : State) : (resetBlock s).argS = 0x00#8 := rfl
@[simp] theorem resetBlock_argL (s : State) : (resetBlock s).argL = 0x00#8 := rfl
@[simp] theorem resetBlock_argC (s : State) : (resetBlock s).argC = 0x00#8 := rfl
@[simp] theorem resetBlock_obuf (s : State) : (resetBlock s).obuf = bufForget s.obuf := rfl
@[simp] theorem resetBlock_listenOnly (s : State) : (resetBlock s).listenOnly = s.listenOnly := rfl
@[simp] theorem resetBlock_rxPos (s : State) : (resetBlock s).rxPos = 0 := rfl
@[simp] theorem resetBlock_rx (s : State) : (resetBlock s).rx = s.rx := rfl
@[simp] theorem resetBlock_tx (s : State) : (resetBlock s).tx = s.tx := rfl
@[simp] theorem resetBlock_events (s : State) : (resetBlock s).events = s.events := rfl
@[simp] theorem resetBlock_params (s : State) : (resetBlock s).params = s.params := rfl
@[simp] theorem resetBlock_rxDuring (s : State) : (resetBlock s).rxDuring = s.rxDuring := rfl
@[simp] theorem resetBlock_rxSupply (s : State) : (resetBlock s).rxSupply = s.rxSupply := rfl
@[simp] theorem resetBlock_overflowCount (s : State) : (resetBlock s).overflowCount = s.overflowCount := rfl
@[simp] theorem resetBlock_script (s : State) : (resetBlock s).script = s.script := rfl

end Sys2Proof.Machine
end

