-- ==== Sys2Proof/Laws/Buffers.lean ====
section
/-! SUPPORT. The laws of the two buffers: a read after a write, the frame of a write, the canonical form, and what the
checked reads and writes answer. -/

namespace Sys2Proof.Machine

theorem Memory.lookup_insert_same (m : Memory) (i : Nat) (v : Byte) :
    Memory.lookup (Memory.insert m i v) i = some v := by
  induction m with
  | nil => simp [Memory.insert, Memory.lookup]
  | cons c m ih =>
    unfold Memory.insert
    split
    · simp [Memory.lookup]
    · split
      · simp [Memory.lookup]
      · have h : c.1 ≠ i := by omega
        simp [Memory.lookup, h, ih]

theorem Memory.lookup_insert_other (m : Memory) (i j : Nat) (v : Byte) (hij : j ≠ i) :
    Memory.lookup (Memory.insert m i v) j = Memory.lookup m j := by
  induction m with
  | nil => simp [Memory.insert, Memory.lookup, Ne.symm hij]
  | cons c m ih =>
    unfold Memory.insert
    split
    · simp [Memory.lookup, Ne.symm hij]
    · split
      · next h => simp [Memory.lookup, Ne.symm hij, ← h]
      · simp [Memory.lookup, ih]

theorem Memory.mem_insert {m : Memory} {i : Nat} {v : Byte} {c : Host.Cell}
    (h : c ∈ Memory.insert m i v) : c = (i, v) ∨ c ∈ m := by
  induction m with
  | nil => simpa [Memory.insert] using h
  | cons d m ih =>
    unfold Memory.insert at h
    split at h
    · simpa using h
    · split at h
      · rcases List.mem_cons.mp h with h | h
        · exact .inl h
        · exact .inr (List.mem_cons_of_mem _ h)
      · rcases List.mem_cons.mp h with h | h
        · exact .inr (by simp [h])
        · rcases ih h with h | h
          · exact .inl h
          · exact .inr (List.mem_cons_of_mem _ h)

theorem Memory.insert_pairwise {m : Memory} {i : Nat} {v : Byte}
    (h : List.Pairwise (fun x y : Host.Cell => x.1 < y.1) m) :
    List.Pairwise (fun x y : Host.Cell => x.1 < y.1) (Memory.insert m i v) := by
  induction m with
  | nil => simp [Memory.insert]
  | cons c m ih =>
    obtain ⟨hc, hm⟩ := List.pairwise_cons.mp h
    unfold Memory.insert
    split
    · next hlt =>
      refine List.pairwise_cons.mpr ⟨fun d hd => ?_, h⟩
      rcases List.mem_cons.mp hd with rfl | hd
      · exact hlt
      · exact Nat.lt_trans hlt (hc d hd)
    · split
      · next heq => exact List.pairwise_cons.mpr ⟨fun d hd => by simpa [heq] using hc d hd, hm⟩
      · refine List.pairwise_cons.mpr ⟨fun d hd => ?_, ih hm⟩
        rcases Memory.mem_insert hd with rfl | hd
        · show c.1 < i
          omega
        · exact hc d hd

/-- Writing a byte that exists keeps the canonical form. -/
theorem Memory.insert_wf {m : Memory} {i : Nat} {v : Byte} (h : Memory.wf m) (hi : i < Config.bufLen) :
    Memory.wf (Memory.insert m i v) := by
  refine ⟨Memory.insert_pairwise h.1, fun c hc => ?_⟩
  rcases Memory.mem_insert hc with rfl | hc
  · exact hi
  · exact h.2 c hc

theorem Memory.nil_wf : Memory.wf [] := by simp [Memory.wf]

/-- What a write of one byte answers: the range check, and the canonical form kept. -/
theorem bufWrite_spec {name : Config.BufferName} {b b' : Buffer} {i : Nat} {v : Byte}
    (h : bufWrite name b i v = .ok b') :
    i < Config.bufLen ∧ b' = { b with cells := Memory.insert b.cells i v } := by
  unfold bufWrite at h
  split at h
  · next hi => exact ⟨hi, by simpa using h.symm⟩
  · cases h

theorem bufByte_insert_same (name : Config.BufferName) (b : Buffer) (i : Nat) (v : Byte) :
    bufByte name { b with cells := Memory.insert b.cells i v } i = v := by
  simp [bufByte, Memory.lookup_insert_same]

theorem bufByte_insert_other (name : Config.BufferName) (b : Buffer) (i j : Nat) (v : Byte) (h : j ≠ i) :
    bufByte name { b with cells := Memory.insert b.cells i v } j = bufByte name b j := by
  simp [bufByte, Memory.lookup_insert_other _ _ _ _ h]

/-- Reads in range answer what the buffer holds. -/
theorem bufReadFrom_ok (name : Config.BufferName) (b : Buffer) (i n : Nat) (h : i + n ≤ Config.bufLen) :
    bufReadFrom name b i n = .ok ((List.range' i n).map (bufByte name b)) := by
  induction n generalizing i with
  | zero => simp [bufReadFrom]
  | succ n ih =>
    have hi : i < Config.bufLen := by omega
    simp [bufReadFrom, bufRead, hi, ih (i + 1) (by omega), List.range'_succ]

/-- Writes in range answer the filled buffer. -/
theorem bufWriteFrom_ok (name : Config.BufferName) (b : Buffer) (i : Nat) (vs : List Byte)
    (h : i + vs.length ≤ Config.bufLen) : bufWriteFrom name b i vs = .ok (bufFill b i vs) := by
  induction vs generalizing b i with
  | nil => rfl
  | cons v vs ih =>
    have h' : i + vs.length + 1 ≤ Config.bufLen := by simpa [Nat.add_assoc] using h
    have hi : i < Config.bufLen := by omega
    simp [bufWriteFrom, bufFill, bufWrite, hi, ih _ (i + 1) (by omega)]

/-- Writes that answer a buffer answer the filled one. -/
theorem bufWriteFrom_spec {name : Config.BufferName} {b b' : Buffer} {i : Nat} {vs : List Byte}
    (h : bufWriteFrom name b i vs = .ok b') :
    b' = bufFill b i vs ∧ (vs = [] ∨ i + vs.length ≤ Config.bufLen) := by
  induction vs generalizing b i with
  | nil => exact ⟨by simpa [bufWriteFrom, bufFill] using h.symm, .inl rfl⟩
  | cons v vs ih =>
    unfold bufWriteFrom at h
    cases hw : bufWrite name b i v with
    | error f => rw [hw] at h; cases h
    | ok b1 =>
      rw [hw] at h
      obtain ⟨hi, rfl⟩ := bufWrite_spec hw
      obtain ⟨rfl, hr⟩ := ih h
      refine ⟨rfl, .inr ?_⟩
      rcases hr with rfl | hr
      · simpa using hi
      · simp only [List.length_cons]; omega

@[simp] theorem bufFill_epoch (b : Buffer) (i : Nat) (vs : List Byte) : (bufFill b i vs).epoch = b.epoch := by
  induction vs generalizing b i with
  | nil => rfl
  | cons v vs ih => simp [bufFill, ih]

/-- Filling leaves every byte outside the written range alone. -/
theorem bufByte_bufFill_outside (name : Config.BufferName) (b : Buffer) (i : Nat) (vs : List Byte) (j : Nat)
    (h : j < i ∨ i + vs.length ≤ j) : bufByte name (bufFill b i vs) j = bufByte name b j := by
  induction vs generalizing b i with
  | nil => rfl
  | cons v vs ih =>
    simp only [List.length_cons] at h
    rw [bufFill, ih _ (i + 1) (by omega), bufByte_insert_other _ _ _ _ _ (by omega)]

/-- Filling writes the bytes. -/
theorem bufByte_bufFill_inside (name : Config.BufferName) (b : Buffer) (i : Nat) (vs : List Byte) (j : Nat)
    (h : j < vs.length) : bufByte name (bufFill b i vs) (i + j) = vs[j] := by
  induction vs generalizing b i j with
  | nil => simp at h
  | cons v vs ih =>
    cases j with
    | zero =>
      rw [bufFill, bufByte_bufFill_outside _ _ _ _ _ (by omega)]
      simpa using bufByte_insert_same name b i v
    | succ j =>
      have hj : j < vs.length := by simpa using h
      have e : i + (j + 1) = i + 1 + j := by omega
      rw [bufFill, e, ih _ (i + 1) j hj]
      simp

theorem bufFill_wf (b : Buffer) (i : Nat) (vs : List Byte) (hb : Memory.wf b.cells)
    (h : vs = [] ∨ i + vs.length ≤ Config.bufLen) : Memory.wf (bufFill b i vs).cells := by
  induction vs generalizing b i with
  | nil => exact hb
  | cons v vs ih =>
    have h' : i + (vs.length + 1) ≤ Config.bufLen := by simpa using h
    exact ih _ (i + 1) (Memory.insert_wf hb (by omega)) (.inr (by omega))

/-- After reset both buffers have the canonical form: nothing is listed. -/
theorem reset_buffers_wf : Memory.wf State.reset.pbuf.cells ∧ Memory.wf State.reset.obuf.cells :=
  ⟨Memory.nil_wf, Memory.nil_wf⟩

theorem bufForget_wf (b : Buffer) : Memory.wf (bufForget b).cells := Memory.nil_wf

/-- The first bytes of a buffer filled from index 0 are the bytes it was filled with. -/
theorem bufBytes_bufFill (name : Config.BufferName) (b : Buffer) (vs : List Byte) :
    bufBytes name (bufFill b 0 vs) vs.length = vs := by
  apply List.ext_getElem
  · simp [bufBytes]
  · intro j h1 h2
    have := bufByte_bufFill_inside name b 0 vs j h2
    simpa [bufBytes] using this

/-- The payload operand is always in range (R44), and is the payload `OBUF` holds. -/
theorem payloadOperand_ok (s : State) : payloadOperand s = .ok (payload s) := by
  have h : 0 + payloadLength s ≤ Config.bufLen := by
    have := s.argL.isLt
    simp only [payloadLength, Config.bufLen]
    omega
  rw [payloadOperand, bufReadFrom_ok _ _ _ _ h, payload, bufBytes, List.range_eq_range']

@[simp] theorem payload_length (s : State) : (payload s).length = s.argL.toNat := by
  simp [payload, bufBytes, payloadLength]

end Sys2Proof.Machine
end

