-- ==== Sys2Proof/Laws/Streams.lean ====
section
/-! SUPPORT. The laws of the streams: what popping answers, what an append can do, what an endless supply
gives, what is written to TX. -/

namespace Sys2Proof.Machine

theorem rxAdvance_zero (s : State) : rxAdvance 0 s = s := rfl

theorem rxAdvance_add (m n : Nat) (s : State) : rxAdvance n (rxAdvance m s) = rxAdvance (m + n) s := by
  simp [rxAdvance, Nat.add_assoc]

/-- A guarded pop answers the oldest byte. -/
theorem rxPop_ok {s : State} {b : Byte} {rest : List Byte} (h : s.rx = b :: rest) :
    rxPop s = .ok (b, rxAdvance 1 s) := by
  simp [rxPop, h]

/-- Guarded pops answer the oldest bytes in stream order. -/
theorem rxPopN_ok {n : Nat} {s : State} (h : n ≤ s.rx.length) :
    rxPopN n s = .ok (s.rx.take n, rxAdvance n s) := by
  induction n generalizing s with
  | zero => simp [rxPopN, rxAdvance_zero]
  | succ n ih =>
    cases hr : s.rx with
    | nil => simp [hr] at h
    | cons b rest =>
      have hn : n ≤ (rxAdvance 1 s).rx.length := by simp [hr] at h ⊢; exact h
      simp [rxPopN, rxPop_ok hr, ih hn, rxAdvance_add, Nat.add_comm 1 n, hr]

/-- Pops that answer were guarded. -/
theorem rxPopN_spec {n : Nat} {s s' : State} {bs : List Byte} (h : rxPopN n s = .ok (bs, s')) :
    n ≤ s.rx.length ∧ bs = s.rx.take n ∧ s' = rxAdvance n s := by
  have hn : n ≤ s.rx.length := by
    induction n generalizing s bs with
    | zero => omega
    | succ n ih =>
      unfold rxPopN at h
      cases hr : s.rx with
      | nil => simp [rxPop, hr] at h
      | cons b rest =>
        rw [rxPop_ok hr] at h
        dsimp only at h
        cases hp : rxPopN n (rxAdvance 1 s) with
        | error f => rw [hp] at h; cases h
        | ok x =>
          obtain ⟨bs', s2⟩ := x
          rw [hp] at h
          obtain ⟨-, rfl⟩ := Prod.mk.inj (Except.ok.inj h)
          have := ih hp
          simp [hr] at this ⊢
          omega
  rw [rxPopN_ok hn] at h
  obtain ⟨rfl, rfl⟩ := Prod.mk.inj (Except.ok.inj h)
  exact ⟨hn, rfl, rfl⟩

/-- A byte that finds RX_SOURCE full changes how many bytes it holds under no policy. -/
theorem overflowed_length (policy : Config.Overflow) (count : Nat) (held : List Byte) (b : Byte) :
    (overflowed policy count held b).length = held.length := by
  cases policy with
  | dropNewest => rfl
  | dropOldest => simp [overflowed]
  | other =>
    simp only [overflowed]
    split <;> simp_all

/-- One appended byte makes the unread bytes no fewer and at most one more. -/
theorem rxAppendByte_length (b : Byte) (s : State) :
    s.rx.length ≤ (rxAppendByte b s).rx.length ∧ (rxAppendByte b s).rx.length ≤ s.rx.length + 1 := by
  unfold rxAppendByte
  split <;> simp [overflowed_length]

/-- What an append can do: it changes the unread bytes and the model's overflow count, no more; the unread bytes do not
become fewer (R42), and their number rises by at most the bytes appended. -/
theorem rxAppend_cases (bs : List Byte) (s : State) :
    ∃ held count, rxAppend bs s = { s with rx := held, overflowCount := count } ∧
      s.rx.length ≤ held.length ∧ held.length ≤ s.rx.length + bs.length := by
  induction bs generalizing s with
  | nil => exact ⟨s.rx, s.overflowCount, rfl, by omega, by simp⟩
  | cons b bs ih =>
    obtain ⟨held, count, he, h1, h2⟩ := ih (rxAppendByte b s)
    obtain ⟨g1, g2⟩ := rxAppendByte_length b s
    refine ⟨held, count, ?_, by omega, by simp only [List.length_cons]; omega⟩
    rw [rxAppend, he]
    unfold rxAppendByte
    split <;> rfl

/-- An unbounded RX_SOURCE takes every byte. -/
theorem rxAppend_unbounded {bs : List Byte} {s : State} (h : s.params.rxCap = none) :
    rxAppend bs s = { s with rx := s.rx ++ bs } := by
  induction bs generalizing s with
  | nil => simp [rxAppend]
  | cons b bs ih =>
    have hf : rxFull s = false := by simp [rxFull, h]
    have hb : rxAppendByte b s = { s with rx := s.rx ++ [b] } := by simp [rxAppendByte, hf]
    rw [rxAppend, hb, ih (by simpa using h)]
    simp

/-- Appending keeps RX_SOURCE within its capacity. -/
theorem rxAppend_within {bs : List Byte} {s : State} {cap : Nat} (hc : s.params.rxCap = some cap)
    (h : s.rx.length ≤ cap) : (rxAppend bs s).rx.length ≤ cap := by
  induction bs generalizing s with
  | nil => exact h
  | cons b bs ih =>
    rw [rxAppend]
    apply ih
    · simp only [rxAppendByte]; split <;> exact hc
    · simp only [rxAppendByte]
      split
      · simpa [overflowed_length] using h
      · next hf =>
        simp [rxFull, hc] at hf
        simpa using hf

/-- The bytes TX_SINK has after some are written. -/
theorem txWriteAll_eq (vs : List Byte) (s : State) : txWriteAll vs s = { s with tx := s.tx ++ vs } := by
  induction vs generalizing s with
  | nil => simp [txWriteAll]
  | cons v vs ih => simp [txWriteAll, ih, txWrite]

/-! ### The fields an append by RX_SOURCE leaves alone -/

@[simp] theorem rxAppend_hdrPending (bs : List Byte) (s : State) : (rxAppend bs s).hdrPending = s.hdrPending := by
  obtain ⟨_, _, h, -⟩ := rxAppend_cases bs s; rw [h]
@[simp] theorem rxAppend_hdrTarget (bs : List Byte) (s : State) : (rxAppend bs s).hdrTarget = s.hdrTarget := by
  obtain ⟨_, _, h, -⟩ := rxAppend_cases bs s; rw [h]
@[simp] theorem rxAppend_hdrSender (bs : List Byte) (s : State) : (rxAppend bs s).hdrSender = s.hdrSender := by
  obtain ⟨_, _, h, -⟩ := rxAppend_cases bs s; rw [h]
@[simp] theorem rxAppend_hdrLength (bs : List Byte) (s : State) : (rxAppend bs s).hdrLength = s.hdrLength := by
  obtain ⟨_, _, h, -⟩ := rxAppend_cases bs s; rw [h]
@[simp] theorem rxAppend_pbuf (bs : List Byte) (s : State) : (rxAppend bs s).pbuf = s.pbuf := by
  obtain ⟨_, _, h, -⟩ := rxAppend_cases bs s; rw [h]
@[simp] theorem rxAppend_lastResult (bs : List Byte) (s : State) : (rxAppend bs s).lastResult = s.lastResult := by
  obtain ⟨_, _, h, -⟩ := rxAppend_cases bs s; rw [h]
@[simp] theorem rxAppend_ckResult (bs : List Byte) (s : State) : (rxAppend bs s).ckResult = s.ckResult := by
  obtain ⟨_, _, h, -⟩ := rxAppend_cases bs s; rw [h]
@[simp] theorem rxAppend_chkMatch (bs : List Byte) (s : State) : (rxAppend bs s).chkMatch = s.chkMatch := by
  obtain ⟨_, _, h, -⟩ := rxAppend_cases bs s; rw [h]
@[simp] theorem rxAppend_cmdOp (bs : List Byte) (s : State) : (rxAppend bs s).cmdOp = s.cmdOp := by
  obtain ⟨_, _, h, -⟩ := rxAppend_cases bs s; rw [h]
@[simp] theorem rxAppend_argT (bs : List Byte) (s : State) : (rxAppend bs s).argT = s.argT := by
  obtain ⟨_, _, h, -⟩ := rxAppend_cases bs s; rw [h]
@[simp] theorem rxAppend_argS (bs : List Byte) (s : State) : (rxAppend bs s).argS = s.argS := by
  obtain ⟨_, _, h, -⟩ := rxAppend_cases bs s; rw [h]
@[simp] theorem rxAppend_argL (bs : List Byte) (s : State) : (rxAppend bs s).argL = s.argL := by
  obtain ⟨_, _, h, -⟩ := rxAppend_cases bs s; rw [h]
@[simp] theorem rxAppend_argC (bs : List Byte) (s : State) : (rxAppend bs s).argC = s.argC := by
  obtain ⟨_, _, h, -⟩ := rxAppend_cases bs s; rw [h]
@[simp] theorem rxAppend_obuf (bs : List Byte) (s : State) : (rxAppend bs s).obuf = s.obuf := by
  obtain ⟨_, _, h, -⟩ := rxAppend_cases bs s; rw [h]
@[simp] theorem rxAppend_listenOnly (bs : List Byte) (s : State) : (rxAppend bs s).listenOnly = s.listenOnly := by
  obtain ⟨_, _, h, -⟩ := rxAppend_cases bs s; rw [h]
@[simp] theorem rxAppend_rxPos (bs : List Byte) (s : State) : (rxAppend bs s).rxPos = s.rxPos := by
  obtain ⟨_, _, h, -⟩ := rxAppend_cases bs s; rw [h]
@[simp] theorem rxAppend_tx (bs : List Byte) (s : State) : (rxAppend bs s).tx = s.tx := by
  obtain ⟨_, _, h, -⟩ := rxAppend_cases bs s; rw [h]
@[simp] theorem rxAppend_events (bs : List Byte) (s : State) : (rxAppend bs s).events = s.events := by
  obtain ⟨_, _, h, -⟩ := rxAppend_cases bs s; rw [h]
@[simp] theorem rxAppend_params (bs : List Byte) (s : State) : (rxAppend bs s).params = s.params := by
  obtain ⟨_, _, h, -⟩ := rxAppend_cases bs s; rw [h]
@[simp] theorem rxAppend_script (bs : List Byte) (s : State) : (rxAppend bs s).script = s.script := by
  obtain ⟨_, _, h, -⟩ := rxAppend_cases bs s; rw [h]
@[simp] theorem rxAppend_rxDuring (bs : List Byte) (s : State) : (rxAppend bs s).rxDuring = s.rxDuring := by
  obtain ⟨_, _, h, -⟩ := rxAppend_cases bs s; rw [h]

@[simp] theorem rxAppend_rxSupply (bs : List Byte) (s : State) : (rxAppend bs s).rxSupply = s.rxSupply := by
  obtain ⟨_, _, h, -⟩ := rxAppend_cases bs s; rw [h]

/-- What a draw from the endless supply can do: it changes the unread bytes, which become no fewer and rise by at most the
bytes asked for, and turns the supply round. -/
theorem rxDraw_cases (n : Nat) (s : State) :
    ∃ held left, rxDraw n s = { s with rx := held, rxSupply := left } ∧
      s.rx.length ≤ held.length ∧ held.length ≤ s.rx.length + n ∧ ∃ k, left = s.rxSupply.rotate k := by
  induction n generalizing s with
  | zero => exact ⟨s.rx, s.rxSupply, rfl, by omega, by omega, 0, by simp⟩
  | succ n ih =>
    rw [rxDraw]
    split
    · next h => exact ⟨s.rx, s.rxSupply, rfl, by omega, by omega, 0, by simp⟩
    · next b bs h =>
      split
      · exact ⟨s.rx, s.rxSupply, rfl, by omega, by omega, 0, by simp⟩
      · obtain ⟨held, left, he, h1, h2, k, hk⟩ := ih { s with rx := s.rx ++ [b], rxSupply := bs ++ [b] }
        simp only [List.length_append, List.length_singleton] at h1 h2
        exact ⟨held, left, by rw [he], by omega, by omega, k + 1, by rw [hk, h, List.rotate_cons_succ]⟩

/-- Nothing is drawn from an empty supply. -/
theorem rxDraw_none {n : Nat} {s : State} (h : s.rxSupply = []) : rxDraw n s = s := by
  cases n <;> simp [rxDraw, h]

/-- A draw keeps RX_SOURCE within its capacity. -/
theorem rxDraw_within {n : Nat} {s : State} {cap : Nat} (hc : s.params.rxCap = some cap) (h : s.rx.length ≤ cap) :
    (rxDraw n s).rx.length ≤ cap := by
  induction n generalizing s with
  | zero => exact h
  | succ n ih =>
    rw [rxDraw]
    split
    · exact h
    · split
      · exact h
      · next hf =>
        refine ih (by exact hc) ?_
        simp [rxFull, hc] at hf
        simpa using hf

/-- A draw that finds room gives the bytes asked for, in the order of the supply and round it again, and leaves the supply
turned by as many. -/
theorem rxDraw_room {n : Nat} {s : State} (hs : s.rxSupply ≠ [])
    (hc : ∀ cap, s.params.rxCap = some cap → s.rx.length + n ≤ cap) :
    rxDraw n s = { s with
      rx := s.rx ++ (List.range n).map (fun j => s.rxSupply.getD (j % s.rxSupply.length) 0x00#8),
      rxSupply := s.rxSupply.rotate n } := by
  induction n generalizing s with
  | zero => simp [rxDraw]
  | succ n ih =>
    cases hb : s.rxSupply with
    | nil => exact absurd hb hs
    | cons b bs =>
      have hf : rxFull s = false := by
        unfold rxFull
        cases hp : s.params.rxCap with
        | none => rfl
        | some cap => have := hc cap hp; simp; omega
      simp only [rxDraw, hb, hf, Bool.false_eq_true, if_false]
      rw [ih (by simp) (fun cap h => by have := hc cap h; simp; omega)]
      simp only [List.rotate_cons_succ, List.append_assoc, List.range_succ_eq_map, List.map_cons, List.map_map]
      congr 1
      congr 1
      simp only [List.singleton_append, Nat.zero_mod, List.getD_cons_zero, List.cons.injEq, true_and]
      apply List.map_congr_left
      intro j _
      simp only [Function.comp, Nat.succ_eq_add_one]
      have hl : (bs ++ [b]).length = (b :: bs).length := by simp
      rw [hl]
      have hm : j % (b :: bs).length < (bs ++ [b]).length := by rw [hl]; exact Nat.mod_lt _ (by simp)
      have hm' : (j + 1) % (b :: bs).length < (b :: bs).length := Nat.mod_lt _ (by simp)
      rw [List.getD_eq_getElem _ _ hm, List.getD_eq_getElem _ _ hm']
      have hr : bs ++ [b] = (b :: bs).rotate 1 := by simp
      simp only [hr, List.getElem_rotate, Nat.mod_add_mod]

@[simp] theorem rxDraw_hdrPending (n : Nat) (s : State) : (rxDraw n s).hdrPending = s.hdrPending := by
  obtain ⟨_, _, h, -⟩ := rxDraw_cases n s; rw [h]
@[simp] theorem rxDraw_hdrTarget (n : Nat) (s : State) : (rxDraw n s).hdrTarget = s.hdrTarget := by
  obtain ⟨_, _, h, -⟩ := rxDraw_cases n s; rw [h]
@[simp] theorem rxDraw_hdrSender (n : Nat) (s : State) : (rxDraw n s).hdrSender = s.hdrSender := by
  obtain ⟨_, _, h, -⟩ := rxDraw_cases n s; rw [h]
@[simp] theorem rxDraw_hdrLength (n : Nat) (s : State) : (rxDraw n s).hdrLength = s.hdrLength := by
  obtain ⟨_, _, h, -⟩ := rxDraw_cases n s; rw [h]
@[simp] theorem rxDraw_pbuf (n : Nat) (s : State) : (rxDraw n s).pbuf = s.pbuf := by
  obtain ⟨_, _, h, -⟩ := rxDraw_cases n s; rw [h]
@[simp] theorem rxDraw_lastResult (n : Nat) (s : State) : (rxDraw n s).lastResult = s.lastResult := by
  obtain ⟨_, _, h, -⟩ := rxDraw_cases n s; rw [h]
@[simp] theorem rxDraw_ckResult (n : Nat) (s : State) : (rxDraw n s).ckResult = s.ckResult := by
  obtain ⟨_, _, h, -⟩ := rxDraw_cases n s; rw [h]
@[simp] theorem rxDraw_chkMatch (n : Nat) (s : State) : (rxDraw n s).chkMatch = s.chkMatch := by
  obtain ⟨_, _, h, -⟩ := rxDraw_cases n s; rw [h]
@[simp] theorem rxDraw_cmdOp (n : Nat) (s : State) : (rxDraw n s).cmdOp = s.cmdOp := by
  obtain ⟨_, _, h, -⟩ := rxDraw_cases n s; rw [h]
@[simp] theorem rxDraw_argT (n : Nat) (s : State) : (rxDraw n s).argT = s.argT := by
  obtain ⟨_, _, h, -⟩ := rxDraw_cases n s; rw [h]
@[simp] theorem rxDraw_argS (n : Nat) (s : State) : (rxDraw n s).argS = s.argS := by
  obtain ⟨_, _, h, -⟩ := rxDraw_cases n s; rw [h]
@[simp] theorem rxDraw_argL (n : Nat) (s : State) : (rxDraw n s).argL = s.argL := by
  obtain ⟨_, _, h, -⟩ := rxDraw_cases n s; rw [h]
@[simp] theorem rxDraw_argC (n : Nat) (s : State) : (rxDraw n s).argC = s.argC := by
  obtain ⟨_, _, h, -⟩ := rxDraw_cases n s; rw [h]
@[simp] theorem rxDraw_obuf (n : Nat) (s : State) : (rxDraw n s).obuf = s.obuf := by
  obtain ⟨_, _, h, -⟩ := rxDraw_cases n s; rw [h]
@[simp] theorem rxDraw_listenOnly (n : Nat) (s : State) : (rxDraw n s).listenOnly = s.listenOnly := by
  obtain ⟨_, _, h, -⟩ := rxDraw_cases n s; rw [h]
@[simp] theorem rxDraw_rxPos (n : Nat) (s : State) : (rxDraw n s).rxPos = s.rxPos := by
  obtain ⟨_, _, h, -⟩ := rxDraw_cases n s; rw [h]
@[simp] theorem rxDraw_tx (n : Nat) (s : State) : (rxDraw n s).tx = s.tx := by
  obtain ⟨_, _, h, -⟩ := rxDraw_cases n s; rw [h]
@[simp] theorem rxDraw_events (n : Nat) (s : State) : (rxDraw n s).events = s.events := by
  obtain ⟨_, _, h, -⟩ := rxDraw_cases n s; rw [h]
@[simp] theorem rxDraw_params (n : Nat) (s : State) : (rxDraw n s).params = s.params := by
  obtain ⟨_, _, h, -⟩ := rxDraw_cases n s; rw [h]
@[simp] theorem rxDraw_script (n : Nat) (s : State) : (rxDraw n s).script = s.script := by
  obtain ⟨_, _, h, -⟩ := rxDraw_cases n s; rw [h]
@[simp] theorem rxDraw_rxDuring (n : Nat) (s : State) : (rxDraw n s).rxDuring = s.rxDuring := by
  obtain ⟨_, _, h, -⟩ := rxDraw_cases n s; rw [h]
@[simp] theorem rxDraw_overflowCount (n : Nat) (s : State) : (rxDraw n s).overflowCount = s.overflowCount := by
  obtain ⟨_, _, h, -⟩ := rxDraw_cases n s; rw [h]

@[simp] theorem rxArrive_hdrPending (s : State) : (rxArrive s).hdrPending = s.hdrPending := by
  unfold rxArrive; split <;> simp
@[simp] theorem rxArrive_hdrTarget (s : State) : (rxArrive s).hdrTarget = s.hdrTarget := by
  unfold rxArrive; split <;> simp
@[simp] theorem rxArrive_hdrSender (s : State) : (rxArrive s).hdrSender = s.hdrSender := by
  unfold rxArrive; split <;> simp
@[simp] theorem rxArrive_hdrLength (s : State) : (rxArrive s).hdrLength = s.hdrLength := by
  unfold rxArrive; split <;> simp
@[simp] theorem rxArrive_pbuf (s : State) : (rxArrive s).pbuf = s.pbuf := by
  unfold rxArrive; split <;> simp
@[simp] theorem rxArrive_lastResult (s : State) : (rxArrive s).lastResult = s.lastResult := by
  unfold rxArrive; split <;> simp
@[simp] theorem rxArrive_ckResult (s : State) : (rxArrive s).ckResult = s.ckResult := by
  unfold rxArrive; split <;> simp
@[simp] theorem rxArrive_chkMatch (s : State) : (rxArrive s).chkMatch = s.chkMatch := by
  unfold rxArrive; split <;> simp
@[simp] theorem rxArrive_cmdOp (s : State) : (rxArrive s).cmdOp = s.cmdOp := by
  unfold rxArrive; split <;> simp
@[simp] theorem rxArrive_argT (s : State) : (rxArrive s).argT = s.argT := by
  unfold rxArrive; split <;> simp
@[simp] theorem rxArrive_argS (s : State) : (rxArrive s).argS = s.argS := by
  unfold rxArrive; split <;> simp
@[simp] theorem rxArrive_argL (s : State) : (rxArrive s).argL = s.argL := by
  unfold rxArrive; split <;> simp
@[simp] theorem rxArrive_argC (s : State) : (rxArrive s).argC = s.argC := by
  unfold rxArrive; split <;> simp
@[simp] theorem rxArrive_obuf (s : State) : (rxArrive s).obuf = s.obuf := by
  unfold rxArrive; split <;> simp
@[simp] theorem rxArrive_listenOnly (s : State) : (rxArrive s).listenOnly = s.listenOnly := by
  unfold rxArrive; split <;> simp
@[simp] theorem rxArrive_rxPos (s : State) : (rxArrive s).rxPos = s.rxPos := by
  unfold rxArrive; split <;> simp
@[simp] theorem rxArrive_tx (s : State) : (rxArrive s).tx = s.tx := by
  unfold rxArrive; split <;> simp
@[simp] theorem rxArrive_events (s : State) : (rxArrive s).events = s.events := by
  unfold rxArrive; split <;> simp
@[simp] theorem rxArrive_params (s : State) : (rxArrive s).params = s.params := by
  unfold rxArrive; split <;> simp
@[simp] theorem rxArrive_script (s : State) : (rxArrive s).script = s.script := by
  unfold rxArrive; split <;> simp

@[simp] theorem rxSettle_hdrPending (s : State) : (rxSettle s).hdrPending = s.hdrPending := by
  simp [rxSettle]
@[simp] theorem rxSettle_hdrTarget (s : State) : (rxSettle s).hdrTarget = s.hdrTarget := by
  simp [rxSettle]
@[simp] theorem rxSettle_hdrSender (s : State) : (rxSettle s).hdrSender = s.hdrSender := by
  simp [rxSettle]
@[simp] theorem rxSettle_hdrLength (s : State) : (rxSettle s).hdrLength = s.hdrLength := by
  simp [rxSettle]
@[simp] theorem rxSettle_pbuf (s : State) : (rxSettle s).pbuf = s.pbuf := by
  simp [rxSettle]
@[simp] theorem rxSettle_lastResult (s : State) : (rxSettle s).lastResult = s.lastResult := by
  simp [rxSettle]
@[simp] theorem rxSettle_ckResult (s : State) : (rxSettle s).ckResult = s.ckResult := by
  simp [rxSettle]
@[simp] theorem rxSettle_chkMatch (s : State) : (rxSettle s).chkMatch = s.chkMatch := by
  simp [rxSettle]
@[simp] theorem rxSettle_cmdOp (s : State) : (rxSettle s).cmdOp = s.cmdOp := by
  simp [rxSettle]
@[simp] theorem rxSettle_argT (s : State) : (rxSettle s).argT = s.argT := by
  simp [rxSettle]
@[simp] theorem rxSettle_argS (s : State) : (rxSettle s).argS = s.argS := by
  simp [rxSettle]
@[simp] theorem rxSettle_argL (s : State) : (rxSettle s).argL = s.argL := by
  simp [rxSettle]
@[simp] theorem rxSettle_argC (s : State) : (rxSettle s).argC = s.argC := by
  simp [rxSettle]
@[simp] theorem rxSettle_obuf (s : State) : (rxSettle s).obuf = s.obuf := by
  simp [rxSettle]
@[simp] theorem rxSettle_listenOnly (s : State) : (rxSettle s).listenOnly = s.listenOnly := by
  simp [rxSettle]
@[simp] theorem rxSettle_rxPos (s : State) : (rxSettle s).rxPos = s.rxPos := by
  simp [rxSettle]
@[simp] theorem rxSettle_tx (s : State) : (rxSettle s).tx = s.tx := by
  simp [rxSettle]
@[simp] theorem rxSettle_events (s : State) : (rxSettle s).events = s.events := by
  simp [rxSettle]
@[simp] theorem rxSettle_params (s : State) : (rxSettle s).params = s.params := by
  simp [rxSettle]
@[simp] theorem rxSettle_script (s : State) : (rxSettle s).script = s.script := by
  simp [rxSettle]
@[simp] theorem rxSettle_rxDuring (s : State) : (rxSettle s).rxDuring = [] := by
  simp [rxSettle]
@[simp] theorem rxSettle_rxSupply (s : State) : (rxSettle s).rxSupply = s.rxSupply := by
  simp [rxSettle]

/-- With nothing to append, nothing arrives. -/
theorem rxArrive_none {s : State} (h : s.rxDuring = []) (hs : s.rxSupply = []) : rxArrive s = s := by
  simp [rxArrive, h, rxDraw_none hs]

/-- With batches to come, exactly the next one arrives. -/
theorem rxArrive_batch {s : State} {batch : List Byte} {more : List (List Byte)} (h : s.rxDuring = batch :: more) :
    rxArrive s = rxAppend batch { s with rxDuring := more } := by
  simp [rxArrive, h]

/-- With no batch to come, the endless supply is drawn on. -/
theorem rxArrive_draw {s : State} (h : s.rxDuring = []) : rxArrive s = rxDraw (checkNeed s - rxAvail s) s := by
  simp [rxArrive, h]

theorem rxSettle_none {s : State} (h : s.rxDuring = []) : rxSettle s = s := by
  cases s; simp_all [rxSettle, rxAppend]

/-- Without an endless supply an arrival moves bytes from those still to come to those unread; it makes none. -/
theorem rxArrive_total {s : State} (hs : s.rxSupply = []) :
    (rxArrive s).rx.length + (rxArrive s).rxDuring.flatten.length ≤ s.rx.length + s.rxDuring.flatten.length := by
  cases h : s.rxDuring with
  | nil => simp [rxArrive_none h hs, h]
  | cons batch more =>
    rw [rxArrive_batch h]
    obtain ⟨held, count, he, -, hle⟩ := rxAppend_cases batch { s with rxDuring := more }
    rw [he]
    simp only [List.flatten_cons, List.length_append]
    simp only at hle
    omega

end Sys2Proof.Machine
end

