-- ==== Sys2Proof/Laws/Commands.lean ====
section
/-! SUPPORT. What the shared operations of the commands and of the moves around them answer. -/

namespace Sys2Proof.Machine

/-- A command that computes a checksum always answers: its payload operand is in range. -/
theorem withChecksum_ok (s : State) (k : List Byte → Byte → State → State × Result) :
    withChecksum s k =
      .ok (k (payload s) (cksum s.argS s.argT (payload s)) (setCkResult (cksum s.argS s.argT (payload s)) s)) := by
  simp [withChecksum, payloadOperand_ok]

@[simp] theorem finish_ok (s : State) (r : Result) : finish (.ok (s, r)) = .next (setResult r s) := rfl

/-- A command that ends in a next state ended with a result, which `LAST_RESULT` holds. -/
theorem finish_next {x : Except Fault (State × Result)} {t : State} (h : finish x = .next t) :
    ∃ s r, x = .ok (s, r) ∧ t = setResult r s := by
  cases x with
  | error f => simp [finish] at h
  | ok y =>
    obtain ⟨s, r⟩ := y
    exact ⟨s, r, rfl, by simpa [finish] using h.symm⟩

/-- A settled outcome went on only if the command did. -/
theorem settle_next {o : Host.Outcome State Fault Refusal} {t : State} (h : settle o = .next t) :
    ∃ s, o = .next s ∧ t = rxSettle s := by
  cases o with
  | next s => exact ⟨s, rfl, by simpa [settle] using h.symm⟩
  | fault f => simp [settle] at h
  | refused r => simp [settle] at h

/-- Everything one step can do: stay idle, or make the script's next move. -/
theorem runScript_cases {s : State} {o : Host.Outcome State Fault Refusal} (h : runScript s = o) :
    (s.script = [] ∧ o = .next s) ∨ ∃ a rest, s.script = a :: rest ∧ o = perform a (setScript rest s) := by
  unfold runScript at h
  split at h
  · next hs => exact .inl ⟨hs, h.symm⟩
  · next a rest hs => exact .inr ⟨a, rest, hs, h.symm⟩

/-- Everything a move that goes on can do. -/
theorem perform_cases {a : Action} {s t : State} (h : perform a s = .next t) :
    (∃ bytes, a = .feed bytes ∧ t = rxAppend bytes s) ∨
      (∃ at' as' al ac, a = .args at' as' al ac ∧ t = setArgs at' as' al ac s) ∨
      (∃ start bytes, a = .writeObuf start bytes ∧ (bytes = [] ∨ start + bytes.length ≤ Config.bufLen) ∧
        t = setObuf (bufFill s.obuf start bytes) s) ∨
      (∃ op during t', a = .command op during ∧ exec (decodeCommand op) (issue op during s) = .next t' ∧
        t = rxSettle t') ∨
      (∃ bytes, a = .supply bytes ∧ t = setSupply bytes s) ∨ (a = .reset ∧ t = resetBlock s) ∨ ∃ level, a = .listenOnly level ∧ t = setListenOnly level s := by
  cases a with
  | feed bytes => exact .inl ⟨bytes, rfl, by simpa [perform] using h.symm⟩
  | args a1 a2 a3 a4 => exact .inr (.inl ⟨a1, a2, a3, a4, rfl, by simpa [perform] using h.symm⟩)
  | writeObuf start bytes =>
    refine .inr (.inr (.inl ⟨start, bytes, rfl, ?_⟩))
    simp only [perform, hostWriteObuf] at h
    cases hb : bufWriteFrom .obuf s.obuf start bytes with
    | error f => rw [hb] at h; cases h
    | ok b =>
      rw [hb] at h
      obtain ⟨rfl, hr⟩ := bufWriteFrom_spec hb
      exact ⟨hr, by simpa using h.symm⟩
  | command op during =>
    obtain ⟨t', he, rfl⟩ := settle_next (by simpa [perform, hostCommand] using h)
    exact .inr (.inr (.inr (.inl ⟨op, during, t', rfl, he, rfl⟩)))
  | supply bytes => exact .inr (.inr (.inr (.inr (.inl ⟨bytes, rfl, by simpa [perform] using h.symm⟩))))
  | reset => exact .inr (.inr (.inr (.inr (.inr (.inl ⟨rfl, by simpa [perform] using h.symm⟩)))))
  | listenOnly level => exact .inr (.inr (.inr (.inr (.inr (.inr ⟨level, rfl, by simpa [perform] using h.symm⟩)))))

end Sys2Proof.Machine
end

