-- ==== Sys2Proof/Laws/Decode.lean ====
section
/-! SUPPORT. What the decoder of the wire units can answer. -/

namespace Sys2Proof

theorem legalAddr_iff (a : Byte) : legalAddr a = true ↔ a ≤ 0x20#8 := decide_eq_true_iff

theorem legalAddr_false_iff (a : Byte) : legalAddr a = false ↔ 0x20#8 < a := by
  rw [← Bool.not_eq_true, legalAddr_iff, BitVec.not_le]

/-- A header is accepted exactly under the four conditions of R92, as itself. -/
theorem decodeHeader_ok_iff (b0 b1 b2 b3 b4 : Byte) (i : Instr) :
    decodeHeader b0 b1 b2 b3 b4 = .ok i ↔
      b0 = Config.startMark ∧ b3 = Config.alignMark ∧ legalAddr b1 = true ∧ legalAddr b2 = true ∧
        i = .frameHeader b1 b2 b4 := by
  unfold decodeHeader
  constructor
  · intro h
    split_ifs at h with h0 h3 h1 h2
    simp_all
  · rintro ⟨rfl, rfl, h1, h2, rfl⟩
    simp [h1, h2]

/-- A rejected header is rejected for the first of the four conditions that fails (R91). -/
theorem decodeHeader_error (b0 b1 b2 b3 b4 : Byte) (e : DecodeError) (h : decodeHeader b0 b1 b2 b3 b4 = .error e) :
    (e = .badStart ∧ b0 ≠ Config.startMark) ∨
      (e = .badMarker ∧ b0 = Config.startMark ∧ b3 ≠ Config.alignMark) ∨
      (e = .badTarget ∧ b0 = Config.startMark ∧ b3 = Config.alignMark ∧ legalAddr b1 = false) ∨
      (e = .badSender ∧ b0 = Config.startMark ∧ b3 = Config.alignMark ∧ legalAddr b1 = true ∧
        legalAddr b2 = false) := by
  unfold decodeHeader at h
  split_ifs at h with h0 h3 h1 h2 <;> simp_all

theorem decodeTrailer_ok_iff (c f : Byte) (i : Instr) :
    decodeTrailer c f = .ok i ↔ f = Config.footerMark ∧ i = .frameTrailer c := by
  unfold decodeTrailer
  constructor
  · intro h
    split_ifs at h with hf
    simp_all
  · rintro ⟨rfl, rfl⟩
    simp

theorem decodeTrailer_error (c f : Byte) (e : DecodeError) (h : decodeTrailer c f = .error e) :
    e = .badFooter ∧ f ≠ Config.footerMark := by
  unfold decodeTrailer at h
  split_ifs at h with hf
  exact ⟨by simpa using h.symm, hf⟩

end Sys2Proof
end

