-- ==== Sys2Proof/Laws/PerInstr.lean ====
section
/-! SUPPORT. What holds of every instruction as syntax, one lemma per constructor. -/

namespace Sys2Proof

/-- The bytes of a space's unit: a command byte, a 5-byte header, a 2-byte trailer (R62 to R64). -/
def Laws.unitLength : Space → Nat
  | .command => 1
  | .header => Config.hdrLen
  | .trailer => Config.trailerLen

/-- An instruction's word is exactly as long as its space's unit. -/
def Laws.EncodedLength.Statement (i : Instr) : Prop := (encode i).length = Laws.unitLength i.space

theorem Laws.EncodedLength.cksumGen : Laws.EncodedLength.Statement .cksumGen := rfl
theorem Laws.EncodedLength.cksumCheck : Laws.EncodedLength.Statement .cksumCheck := rfl
theorem Laws.EncodedLength.tryReadHeader : Laws.EncodedLength.Statement .tryReadHeader := rfl
theorem Laws.EncodedLength.tryReadMessage : Laws.EncodedLength.Statement .tryReadMessage := rfl
theorem Laws.EncodedLength.decodeTick : Laws.EncodedLength.Statement .decodeTick := rfl
theorem Laws.EncodedLength.encodeFrame : Laws.EncodedLength.Statement .encodeFrame := rfl
theorem Laws.EncodedLength.reservedCmd (op : Byte) : Laws.EncodedLength.Statement (.reservedCmd op) := rfl
theorem Laws.EncodedLength.frameHeader (t s l : Byte) : Laws.EncodedLength.Statement (.frameHeader t s l) := rfl
theorem Laws.EncodedLength.frameTrailer (c : Byte) : Laws.EncodedLength.Statement (.frameTrailer c) := rfl

end Sys2Proof
end

