-- ==== Sys2Proof/Laws/Receive.lean ====
section
/-! SUPPORT. What the two sub-steps of the receive decoder can do, said once. -/

namespace Sys2Proof.Machine

/-! ### HDR_STEP -/

/-- When HDR_STEP goes on to pop: no header is pending and five bytes are there, under both parameter values. -/
theorem hdrGate_none_iff (s : State) : hdrGate s = none ↔ s.hdrPending = false ∧ 5 ≤ s.rx.length := by
  by_cases hl : s.rx.length < 5 <;> cases hp : s.hdrPending <;> cases hf : s.params.hdrAvailFirst <;>
    simp [hdrGate, rxAvail, Config.hdrLen, hp, hf, hl] <;> omega

/-- What HDR_STEP returns when it consumes nothing. -/
theorem hdrGate_some {s : State} {r : Result} (h : hdrGate s = some r) :
    (r = .ok ∧ s.hdrPending = true) ∨ (r = .needMore ∧ s.rx.length < 5) := by
  by_cases hl : s.rx.length < 5 <;> cases hp : s.hdrPending <;> cases hf : s.params.hdrAvailFirst <;>
    simp [hdrGate, rxAvail, Config.hdrLen, hp, hf, hl] at h <;> simp [← h, hl]

theorem hdrStepOn_wait {unit : Option (List Byte)} {s : State} {r : Result} (h : hdrGate s = some r) :
    hdrStepOn unit s = .ok (s, r) := by
  simp [hdrStepOn, h]

theorem hdrStepOn_go {unit : Option (List Byte)} {s : State} {b0 b1 b2 b3 b4 : Byte} (h : hdrGate s = none)
    (hb : unit.getD (s.rx.take 5) = [b0, b1, b2, b3, b4]) :
    hdrStepOn unit s = .ok (hdrVerdict b0 b1 b2 b3 b4 (rxAdvance 5 s)) := by
  have hn : Config.hdrLen ≤ s.rx.length := ((hdrGate_none_iff s).mp h).2
  have hb' : unit.getD (s.rx.take Config.hdrLen) = [b0, b1, b2, b3, b4] := hb
  simp only [hdrStepOn, h, rxPopN_ok hn, hb']
  rfl

/-- The five bytes a going HDR_STEP pops. -/
theorem rx_five {s : State} (h : hdrGate s = none) :
    ∃ b0 b1 b2 b3 b4 rest, s.rx = b0 :: b1 :: b2 :: b3 :: b4 :: rest := by
  have hn := ((hdrGate_none_iff s).mp h).2
  match hr : s.rx, hn with
  | b0 :: b1 :: b2 :: b3 :: b4 :: rest, _ => exact ⟨b0, b1, b2, b3, b4, rest, rfl⟩

/-- Everything HDR_STEP can do (R91 to R94): return without consuming, accept a header, or reject one. -/
theorem hdrStep_cases {s t : State} {r : Result} (h : hdrStep s = .ok (t, r)) :
    (hdrGate s = some r ∧ t = s) ∨
      (∃ b0 b1 b2 b3 b4 rest, hdrGate s = none ∧ s.rx = b0 :: b1 :: b2 :: b3 :: b4 :: rest ∧
        ((decodeHeader b0 b1 b2 b3 b4 = .ok (.frameHeader b1 b2 b4) ∧ r = .ok ∧
            t = loadHeader b1 b2 b4 (rxAdvance 5 s)) ∨
          (∃ e, decodeHeader b0 b1 b2 b3 b4 = .error e ∧ r = rejection e ∧ t = raise r (rxAdvance 5 s)))) := by
  cases hg : hdrGate s with
  | some r' =>
    rw [hdrStep, hdrStepOn_wait hg] at h
    obtain ⟨rfl, rfl⟩ := Prod.mk.inj (Except.ok.inj h)
    exact .inl ⟨rfl, rfl⟩
  | none =>
    obtain ⟨b0, b1, b2, b3, b4, rest, hr⟩ := rx_five hg
    rw [hdrStep, hdrStepOn_go hg (by simp [hr] : (none : Option (List Byte)).getD (s.rx.take 5) = [b0, b1, b2, b3, b4])] at h
    refine .inr ⟨b0, b1, b2, b3, b4, rest, rfl, hr, ?_⟩
    unfold hdrVerdict at h
    cases hd : decodeHeader b0 b1 b2 b3 b4 with
    | ok i =>
      obtain ⟨-, -, -, -, rfl⟩ := (decodeHeader_ok_iff _ _ _ _ _ _).mp hd
      rw [hd] at h
      obtain ⟨rfl, rfl⟩ := Prod.mk.inj (Except.ok.inj h)
      exact .inl ⟨rfl, rfl, rfl⟩
    | error e =>
      rw [hd] at h
      obtain ⟨rfl, rfl⟩ := Prod.mk.inj (Except.ok.inj h)
      exact .inr ⟨e, rfl, rfl, rfl⟩

/-- HDR_STEP always answers: its pops are guarded (R41). -/
theorem hdrStep_answers (s : State) : ∃ t r, hdrStep s = .ok (t, r) := by
  cases hg : hdrGate s with
  | some r => exact ⟨s, r, hdrStepOn_wait hg⟩
  | none =>
    obtain ⟨b0, b1, b2, b3, b4, rest, hr⟩ := rx_five hg
    exact ⟨_, _, hdrStepOn_go (unit := none) hg (b0 := b0) (b1 := b1) (b2 := b2) (b3 := b3) (b4 := b4) (by simp [hr])⟩

/-! ### MSG_STEP -/

theorem msgGate_none_iff (s : State) :
    msgGate s = none ↔ s.hdrPending = true ∧ s.hdrLength.toNat + 2 ≤ s.rx.length := by
  by_cases hl : s.rx.length < s.hdrLength.toNat + 2 <;> cases hp : s.hdrPending <;>
    simp [msgGate, rxAvail, messageNeed, pendingLength, Config.trailerLen, hp, hl]
  omega

theorem msgGate_some {s : State} {r : Result} (h : msgGate s = some r) :
    (r = .noHeader ∧ s.hdrPending = false) ∨
      (r = .needMore ∧ s.hdrPending = true ∧ s.rx.length < s.hdrLength.toNat + 2) := by
  by_cases hl : s.rx.length < s.hdrLength.toNat + 2 <;> cases hp : s.hdrPending <;>
    simp [msgGate, rxAvail, messageNeed, pendingLength, Config.trailerLen, hp, hl] at h <;> simp [← h, hl]

/-- The payload reads of R97 consume the bytes in stream order and leave them in `PBUF`. -/
theorem fillPbuf_ok {i n : Nat} {s : State} (hi : i + n ≤ Config.bufLen) (hn : n ≤ s.rx.length) :
    fillPbuf i n s = .ok (setPbuf (bufFill s.pbuf i (s.rx.take n)) (rxAdvance n s)) := by
  induction n generalizing i s with
  | zero => rfl
  | succ n ih =>
    cases hr : s.rx with
    | nil => simp [hr] at hn
    | cons v rest =>
      have hi' : i < Config.bufLen := by omega
      have hn' : n ≤ (setPbuf { s.pbuf with cells := Memory.insert s.pbuf.cells i v } (rxAdvance 1 s)).rx.length := by
        simp [hr] at hn ⊢; exact hn
      simp only [fillPbuf, rxPop_ok hr, bufWrite, rxAdvance_pbuf, hi', if_true, ih (i := i + 1) (by omega) hn']
      simp [setPbuf, rxAdvance, hr, bufFill, Nat.add_comm, Nat.add_left_comm]

/-- The state of a going MSG_STEP when it comes to its checks: all `L + 2` bytes consumed, the payload in `PBUF`, the
pending flag cleared (R97 to R99). -/
def afterMessage (p : List Byte) (s : State) : State :=
  clearPending (rxAdvance (p.length + 2) (setPbuf (bufFill s.pbuf 0 p) s))

theorem msgStepOn_wait {unit : Option (List Byte)} {s : State} {r : Result} (h : msgGate s = some r) :
    msgStepOn unit s = .ok (s, r) := by
  simp [msgStepOn, h]

/-- A going MSG_STEP reads exactly the payload its header announced. -/
theorem msgStepOn_go {unit : Option (List Byte)} {s : State} {p rest : List Byte} {c f c' f' : Byte}
    (hp : s.hdrPending = true) (hr : s.rx = p ++ c' :: f' :: rest) (hl : p.length = s.hdrLength.toNat)
    (hu : unit.getD [c', f'] = [c, f]) :
    msgStepOn unit s = .ok (msgVerdict p c f (afterMessage p s)) := by
  have hg : msgGate s = none := (msgGate_none_iff s).mpr ⟨hp, by simp [hr, hl]⟩
  have hL : s.hdrLength.toNat ≤ Config.bufLen := by
    have := s.hdrLength.isLt
    simp only [Config.bufLen]
    omega
  have hfill := fillPbuf_ok (i := 0) (n := s.hdrLength.toNat) (s := s) (by omega) (by simp [hr, hl])
  have ht : s.rx.take s.hdrLength.toNat = p := by simp [hr, ← hl]
  have hd : s.rx.drop s.hdrLength.toNat = c' :: f' :: rest := by simp [hr, ← hl]
  rw [ht] at hfill
  have hpop : rxPopN Config.trailerLen (setPbuf (bufFill s.pbuf 0 p) (rxAdvance s.hdrLength.toNat s)) =
      .ok ([c', f'], rxAdvance 2 (setPbuf (bufFill s.pbuf 0 p) (rxAdvance s.hdrLength.toNat s))) := by
    rw [rxPopN_ok (by simp [hd, Config.trailerLen])]
    simp [hd, Config.trailerLen]
  have hread : bufReadFrom .pbuf (bufFill s.pbuf 0 p) 0 s.hdrLength.toNat = .ok p := by
    rw [bufReadFrom_ok _ _ _ _ (by omega), ← List.range_eq_range', ← hl]
    exact congrArg _ (bufBytes_bufFill .pbuf s.pbuf p)
  simp only [msgStepOn, hg, pendingLength, hfill, hpop, rxAdvance_pbuf, setPbuf_pbuf, rxAdvance_hdrLength,
    setPbuf_hdrLength, hread, hu]
  simp [afterMessage, hl, rxAdvance, setPbuf, clearPending, Nat.add_assoc]

/-- The bytes a going MSG_STEP pops: payload, checksum byte, footer byte. -/
theorem rx_message {s : State} (h : msgGate s = none) :
    ∃ p c f rest, s.rx = p ++ c :: f :: rest ∧ p.length = s.hdrLength.toNat := by
  have hn := ((msgGate_none_iff s).mp h).2
  have hd : 2 ≤ (s.rx.drop s.hdrLength.toNat).length := by simp; omega
  match hm : s.rx.drop s.hdrLength.toNat, hd with
  | c :: f :: rest, _ =>
    exact ⟨s.rx.take s.hdrLength.toNat, c, f, rest, by rw [← hm, List.take_append_drop], by simp; omega⟩

/-- Everything MSG_STEP can do (R97 to R104): return without consuming, deliver a frame, or reject one. -/
theorem msgStep_cases {s t : State} {r : Result} (h : msgStep s = .ok (t, r)) :
    (msgGate s = some r ∧ t = s) ∨
      (∃ p c f rest, msgGate s = none ∧ s.rx = p ++ c :: f :: rest ∧ p.length = s.hdrLength.toNat ∧
        ((c = cksum s.hdrSender s.hdrTarget p ∧ f = Config.footerMark ∧ r = .ok ∧
            t = emit (.deliver s.hdrTarget s.hdrSender s.hdrLength p) (afterMessage p s)) ∨
          (c ≠ cksum s.hdrSender s.hdrTarget p ∧ r = .errChecksum ∧
            t = (rejectMessage .errChecksum (afterMessage p s)).1) ∨
          (c = cksum s.hdrSender s.hdrTarget p ∧ f ≠ Config.footerMark ∧ r = .errFooter ∧
            t = (rejectMessage .errFooter (afterMessage p s)).1))) := by
  cases hg : msgGate s with
  | some r' =>
    rw [msgStep, msgStepOn_wait hg] at h
    obtain ⟨rfl, rfl⟩ := Prod.mk.inj (Except.ok.inj h)
    exact .inl ⟨rfl, rfl⟩
  | none =>
    obtain ⟨p, c, f, rest, hr, hl⟩ := rx_message hg
    rw [msgStep, msgStepOn_go (unit := none) ((msgGate_none_iff s).mp hg).1 hr hl rfl] at h
    refine .inr ⟨p, c, f, rest, rfl, hr, hl, ?_⟩
    have h' := Except.ok.inj h
    unfold msgVerdict at h'
    split at h'
    · next hc =>
      obtain ⟨rfl, rfl⟩ := Prod.mk.inj h'
      exact .inr (.inl ⟨hc, rfl, rfl⟩)
    · next hc =>
      have hc' : c = cksum s.hdrSender s.hdrTarget p := by simpa [afterMessage] using hc
      cases hd : decodeTrailer c f with
      | ok i =>
        rw [hd] at h'
        obtain ⟨rfl, rfl⟩ := Prod.mk.inj h'
        exact .inl ⟨hc', ((decodeTrailer_ok_iff _ _ _).mp hd).1, rfl, rfl⟩
      | error e =>
        obtain ⟨rfl, hf⟩ := decodeTrailer_error _ _ _ hd
        rw [hd] at h'
        obtain ⟨rfl, rfl⟩ := Prod.mk.inj h'
        exact .inr (.inr ⟨hc', hf, rfl, rfl⟩)

/-- MSG_STEP always answers: its pops and its buffer accesses are guarded (R41, R44). -/
theorem msgStep_answers (s : State) : ∃ t r, msgStep s = .ok (t, r) := by
  cases hg : msgGate s with
  | some r => exact ⟨s, r, msgStepOn_wait hg⟩
  | none =>
    obtain ⟨p, c, f, rest, hr, hl⟩ := rx_message hg
    exact ⟨_, _, msgStepOn_go (unit := none) ((msgGate_none_iff s).mp hg).1 hr hl rfl⟩

/-! ### The DECODE_TICK loop -/

/-- One iteration of the loop, if it answers: a sub-step that failed ends it, or a frame was delivered and the loop
goes on (R111). -/
theorem tickLoop_cases {n : Nat} {s t : State} {r : Result} (h : tickLoop n s = .ok (t, r)) :
    ∃ m s1 r1, n = m + 1 ∧ hdrStep s = .ok (s1, r1) ∧
      ((r1 ≠ .ok ∧ t = s1 ∧ r = r1) ∨
        (r1 = .ok ∧ ∃ s2 r2, msgStep (rxArrive s1) = .ok (s2, r2) ∧
          ((r2 ≠ .ok ∧ t = s2 ∧ r = r2) ∨ (r2 = .ok ∧ tickLoop m (rxArrive s2) = .ok (t, r))))) := by
  cases n with
  | zero => simp [tickLoop] at h
  | succ m =>
    obtain ⟨s1, r1, h1⟩ := hdrStep_answers s
    refine ⟨m, s1, r1, rfl, h1, ?_⟩
    simp only [tickLoop, h1] at h
    split at h
    · next hr =>
      obtain ⟨rfl, rfl⟩ := Prod.mk.inj (Except.ok.inj h)
      exact .inl ⟨hr, rfl, rfl⟩
    · next hr =>
      refine .inr ⟨by simpa using hr, ?_⟩
      obtain ⟨s2, r2, h2⟩ := msgStep_answers (rxArrive s1)
      refine ⟨s2, r2, h2, ?_⟩
      simp only [h2] at h
      split at h
      · next hr2 =>
        obtain ⟨rfl, rfl⟩ := Prod.mk.inj (Except.ok.inj h)
        exact .inl ⟨hr2, rfl, rfl⟩
      · next hr2 => exact .inr ⟨by simpa using hr2, h⟩

/-- A property of a tick's start, end and result holds if it holds where the first sub-step fails, where the second
does, and where a frame was delivered and it holds of the tick from there. -/
theorem tickLoop_induct {P : State → State → Result → Prop}
    (hdrEnds : ∀ s s1 r, hdrStep s = .ok (s1, r) → r ≠ .ok → P s s1 r)
    (msgEnds : ∀ s s1 s2 r, hdrStep s = .ok (s1, .ok) → msgStep (rxArrive s1) = .ok (s2, r) → r ≠ .ok → P s s2 r)
    (goesOn : ∀ s s1 s2 t r, hdrStep s = .ok (s1, .ok) → msgStep (rxArrive s1) = .ok (s2, .ok) →
      P (rxArrive s2) t r → P s t r)
    {n : Nat} {s t : State} {r : Result} (h : tickLoop n s = .ok (t, r)) : P s t r := by
  induction n generalizing s with
  | zero => simp [tickLoop] at h
  | succ n ih =>
    obtain ⟨m, s1, r1, hm, h1, h | ⟨rfl, s2, r2, h2, h | ⟨rfl, h⟩⟩⟩ := tickLoop_cases h
    · obtain ⟨e, rfl, rfl⟩ := h
      exact hdrEnds _ _ _ h1 e
    · obtain ⟨e, rfl, rfl⟩ := h
      exact msgEnds _ _ _ _ h1 h2 e
    · obtain rfl : n = m := by omega
      exact goesOn _ _ _ _ _ h1 h2 (ih h)

end Sys2Proof.Machine
end

