-- ==== Sys2Proof/Laws/Safety.lean ====
section
/-! SUPPORT. The safety predicates in the terms of the state's fields. -/

namespace Sys2Proof.Machine

theorem rxWithinCap_iff (s : State) :
    rxWithinCap s = true ↔ ∀ cap, s.params.rxCap = some cap → s.rx.length ≤ cap := by
  unfold rxWithinCap
  cases s.params.rxCap <;> simp

theorem stalled_iff (s : State) :
    stalled s = true ↔
      ∃ cap, s.params.rxCap = some cap ∧ s.hdrPending = true ∧ cap < s.hdrLength.toNat + 2 ∧ s.rx.length ≤ cap := by
  unfold stalled
  cases s.params.rxCap with
  | none => simp
  | some cap =>
    simp only [Bool.and_eq_true, and_assoc]
    constructor
    · rintro ⟨a, b, c⟩
      exact ⟨cap, rfl, a, of_decide_eq_true b, of_decide_eq_true c⟩
    · rintro ⟨_, h, a, b, c⟩
      cases h
      exact ⟨a, decide_eq_true b, decide_eq_true c⟩

theorem pendingAddressesLegal_iff (s : State) :
    pendingAddressesLegal s = true ↔
      (s.hdrPending = true → legalAddr s.hdrTarget = true ∧ legalAddr s.hdrSender = true) := by
  unfold pendingAddressesLegal
  cases s.hdrPending <;> simp

end Sys2Proof.Machine
end

