-- ==== Sys2Proof/Tests/Slice0.lean ====
section
/-! SUPPORT. The author's tests. Expected values come from spec/30_encoding.md and the vectors W, V-CK, V-RX, V-TX,
V-ERR, V-RST of spec/95_test_vectors.md. The second part shows, for every statement with hypotheses, a state and
operands that meet them. -/

namespace Sys2Proof.Tests

open Sys2Proof Sys2Proof.Machine

/-! ## Helpers -/

/-- Bytes from numbers. -/
def bytes (ns : List Nat) : List Byte := ns.map (BitVec.ofNat 8)

/-- After reset, with bytes unread. -/
def fed (ns : List Nat) : State := { State.reset with rx := bytes ns }

/-- A header pending, with bytes unread. -/
def pending (t s l : Byte) (ns : List Nat) : State :=
  { fed ns with hdrPending := true, hdrTarget := t, hdrSender := s, hdrLength := l }

/-- After reset, with the operands of a checksum or an encoding written. -/
def operands (t s c : Byte) (ns : List Nat) : State :=
  { State.reset with
    argT := t, argS := s, argC := c, argL := BitVec.ofNat 8 ns.length, obuf := bufFill Buffer.reset 0 (bytes ns) }

/-- After reset, with moves to come. -/
def scripted (as : List Action) : State := { State.reset with script := as }

/-- An RX_SOURCE of a capacity and a policy. -/
def bounded (cap : Nat) (o : Config.Overflow) (s : State) : State :=
  { s with params := { s.params with rxCap := some cap, rxOverflow := o } }

/-- The literal order of checks of HDR_STEP. -/
def availFirst (s : State) : State := { s with params := { s.params with hdrAvailFirst := true } }

/-- What is seen of a next state. -/
def seen {α : Type} (o : Host.Outcome State Fault Refusal) (f : State → α) : Option α :=
  match o with
  | .next s => some (f s)
  | .fault _ => none
  | .refused _ => none

/-- The bytes of the frame of W3. -/
def w3 : List Nat := [1, 1, 2, 1, 1, 4, 0xF7, 4]

/-- Its delivery. -/
def w3Event : Event := .deliver 0x01#8 0x02#8 0x01#8 [0x04#8]

/-! ## WellFormed: one ill-formed term for each check -/

theorem test_command_code_is_no_reserved_code : (Instr.reservedCmd 0x03#8).wellFormed = false := by decide

theorem test_reserved_codes_at_their_bounds :
    (Instr.reservedCmd 0x00#8).wellFormed = true ∧ (Instr.reservedCmd 0x06#8).wellFormed = false ∧
      (Instr.reservedCmd 0x07#8).wellFormed = true ∧ (Instr.reservedCmd 0xFF#8).wellFormed = true := by decide

theorem test_target_33_refused : (Instr.frameHeader 0x21#8 0x02#8 0x01#8).wellFormed = false := by decide

theorem test_sender_33_refused : (Instr.frameHeader 0x02#8 0x21#8 0x01#8).wellFormed = false := by decide

theorem test_addresses_32_accepted : (Instr.frameHeader 0x20#8 0x20#8 0xFF#8).wellFormed = true := by decide

/-! ## Decoding: words written out from R62 to R66 -/

theorem test_decode_cksumGen : decodeTableWord 8 0b00000001 = some .cksumGen := by decide
theorem test_decode_cksumCheck : decodeTableWord 8 0b00000010 = some .cksumCheck := by decide
theorem test_decode_tryReadHeader : decodeTableWord 8 0b00000011 = some .tryReadHeader := by decide
theorem test_decode_tryReadMessage : decodeTableWord 8 0b00000100 = some .tryReadMessage := by decide
theorem test_decode_decodeTick : decodeTableWord 8 0b00000101 = some .decodeTick := by decide
theorem test_decode_encodeFrame : decodeTableWord 8 0b00000110 = some .encodeFrame := by decide
theorem test_decode_reservedCmd :
    decodeTableWord 8 0b00000000 = some (.reservedCmd 0x00#8) ∧ decodeTableWord 8 0b00000111 = some (.reservedCmd 0x07#8) ∧
      decodeTableWord 8 0b11111111 = some (.reservedCmd 0xFF#8) := by decide

/-- The pattern of R62: `00000001 tttttttt ssssssss 00000001 llllllll`. -/
theorem test_decode_frameHeader :
    decodeTableWord 40 0b0000000100010000000100010000000111111111 =
      some (.frameHeader 0x10#8 0x11#8 0xFF#8) := by decide

/-- R63: the checksum byte, then the footer. -/
theorem test_decode_frameTrailer : decodeTableWord 16 0b1001101000000100 = some (.frameTrailer 0x9A#8) := by decide

/-- R70: each illegal value of a header, and of a footer. -/
theorem test_illegal_wire_values :
    [0x0001020101, 0x0101020201, 0x0121020101, 0x0102210101].map (decodeTableWord 40) = [none, none, none, none] ∧
      decodeTableWord 16 0xF705 = none := by decide

/-- R137 (b): the first failing condition in the order start, marker, target, sender. -/
theorem test_header_errors_in_order :
    decodeHeader 0x00#8 0x40#8 0x40#8 0x00#8 0x07#8 = .error .badStart ∧
      decodeHeader 0x01#8 0x40#8 0x40#8 0x00#8 0x07#8 = .error .badMarker ∧
      decodeHeader 0x01#8 0x40#8 0x40#8 0x01#8 0x07#8 = .error .badTarget ∧
      decodeHeader 0x01#8 0x20#8 0x40#8 0x01#8 0x07#8 = .error .badSender := ⟨rfl, rfl, rfl, rfl⟩

/-! ## One step of each instruction -/

/-- V-CK-1, V-CK-5, V-CK-8, V-CK-10. -/
theorem test_cksumGen :
    seen (exec .cksumGen (operands 0x01#8 0x02#8 0x00#8 [4])) (·.ckResult) = some 0xF7#8 ∧
      seen (exec .cksumGen (operands 0x20#8 0x20#8 0x00#8 [0xBD, 0])) (·.ckResult) = some 0x00#8 ∧
      seen (exec .cksumGen (operands 0x01#8 0x02#8 0x00#8 [2, 0xAA])) (·.ckResult) = some 0x4E#8 ∧
      seen (exec .cksumGen (operands 0x10#8 0x11#8 0x00#8 [0x20, 0, 0x21])) (·.ckResult) = some 0x9A#8 := by decide

/-- V-CK-3, V-CK-11: addresses above 32 are operands like others. -/
theorem test_cksumGen_empty_payload :
    seen (exec .cksumGen (operands 0x00#8 0x00#8 0x00#8 [])) (·.ckResult) = some 0xFF#8 ∧
      seen (exec .cksumGen (operands 0xFF#8 0xFF#8 0x00#8 [])) (·.ckResult) = some 0x01#8 := by decide

/-- V-CK-12. -/
theorem test_cksumCheck_match :
    seen (exec .cksumCheck (operands 0x01#8 0x02#8 0xF7#8 [4])) (fun s => (s.chkMatch, s.ckResult, s.lastResult)) =
      some (true, 0xF7#8, 0x0#4) := by decide

/-- V-CK-13. -/
theorem test_cksumCheck_mismatch :
    seen (exec .cksumCheck (operands 0x01#8 0x02#8 0xF8#8 [4])) (fun s => (s.chkMatch, s.ckResult, s.events)) =
      some (false, 0xF7#8, []) := by decide

/-- V-RX-1: target, sender and length in their own registers. -/
theorem test_tryReadHeader_accepts :
    seen (exec .tryReadHeader (fed [1, 1, 2, 1, 3])) (fun s => (s.hdrPending, s.hdrTarget, s.hdrSender, s.hdrLength)) =
      some (true, 0x01#8, 0x02#8, 0x03#8) := by decide

/-- V-RX-3, W6. -/
theorem test_tryReadHeader_rejects :
    seen (exec .tryReadHeader (fed [0, 1, 2, 1, 1, 9])) (fun s => (s.hdrPending, s.lastResult, s.rx, s.events)) =
      some (false, 0x3#4, [0x09#8], [.diag .errStart]) := by decide

/-- V-RX-9. -/
theorem test_tryReadMessage_delivers :
    seen (exec .tryReadMessage (pending 0x01#8 0x02#8 0x01#8 [4, 0xF7, 4]))
        (fun s => (s.hdrPending, s.lastResult, s.rxPos, s.events)) =
      some (false, 0x0#4, 3, [w3Event]) := by decide

/-- V-RX-10, V-RX-11, V-RX-11b: the checksum before the footer. -/
theorem test_tryReadMessage_rejects :
    [[4, 0xF8, 4], [4, 0xF7, 5], [4, 0xF8, 5]].map (fun ns =>
        seen (exec .tryReadMessage (pending 0x01#8 0x02#8 0x01#8 ns)) (fun s => (s.lastResult, s.rx, s.events))) =
      [some (0x7#4, [], [.diag .errChecksum]), some (0x8#4, [], [.diag .errFooter]),
        some (0x7#4, [], [.diag .errChecksum])] := by decide

/-- V-RX-13d: a delivery, then a bad header five bytes further. -/
theorem test_decodeTick_delivers_then_fails :
    seen (exec .decodeTick (fed (w3 ++ [0, 1, 2, 3, 4, 5]))) (fun s => (s.lastResult, s.rxPos, s.rx, s.events)) =
      some (0x3#4, 13, [0x05#8], [w3Event, .diag .errStart]) := by decide

/-- V-RX-12, second half of its first case, the bytes coming while the tick runs. -/
theorem test_decodeTick_arrivals :
    seen (exec .decodeTick { fed [1, 1, 2, 1, 1] with rxDuring := [bytes [4, 0xF7, 4]] })
        (fun s => (s.lastResult, s.rxPos, s.events)) =
      some (0x1#4, 8, [w3Event]) := by decide

/-- V-TX-4. -/
theorem test_encodeFrame :
    seen (exec .encodeFrame (operands 0x10#8 0x11#8 0x00#8 [0x20, 0, 0x21])) (fun s => (s.tx, s.ckResult, s.lastResult)) =
      some (bytes [1, 0x10, 0x11, 1, 3, 0x20, 0, 0x21, 0x9A, 4], 0x9A#8, 0x0#4) := by decide

/-- V-TX-7. -/
theorem test_encodeFrame_suppressed :
    seen (exec .encodeFrame (setListenOnly true (operands 0x01#8 0x02#8 0x00#8 [4])))
        (fun s => (s.tx, s.ckResult, s.lastResult, s.events)) =
      some ([], 0xF7#8, 0xA#4, []) := by decide

/-- V-ERR-1. -/
theorem test_reservedCmd :
    seen (exec (.reservedCmd 0x00#8) (pending 0x01#8 0x02#8 0x01#8 [4]))
        (fun s => (s.hdrPending, s.lastResult, s.rx, s.events)) =
      some (true, 0x9#4, [0x04#8], [.diag .errCmd]) := by decide

/-- The header of V-RX-13b, addresses 32. -/
theorem test_frameHeader :
    seen (exec (.frameHeader 0x20#8 0x1F#8 0x02#8) (fed [1, 0x20, 0x1F, 1, 2, 0xBD]))
        (fun s => (s.hdrTarget, s.hdrSender, s.hdrLength, s.rx)) =
      some (0x20#8, 0x1F#8, 0x02#8, [0xBD#8]) := by decide

/-- The trailer of W3, and a wrong one. -/
theorem test_frameTrailer :
    [0xF7#8, 0xF8#8].map (fun c => seen (exec (.frameTrailer c) (pending 0x01#8 0x02#8 0x01#8 [4, 0, 0])) (·.events)) =
      [some [w3Event], some [.diag .errChecksum]] := by decide

/-! ## Steps -/

/-- The word of each table row, placed, is what the very next step runs. -/
theorem test_withFetchWord_command :
    seen (step (State.reset.withFetchWord 8 0x07)) (fun s => (s.lastResult, s.cmdOp)) = some (0x9#4, 0x07#8) := by decide

theorem test_withFetchWord_header :
    seen (step (State.reset.withFetchWord 40 0x0120050109)) (fun s => (s.hdrPending, s.hdrTarget, s.hdrSender)) =
      some (true, 0x20#8, 0x05#8) := by decide

/-- An empty payload between the addresses 0: the checksum 0xFF (V-RX-13a). -/
theorem test_withFetchWord_trailer :
    seen (step (State.reset.withFetchWord 16 0xFF04)) (fun s => (s.lastResult, s.events)) =
      some (0x0#4, [.deliver 0x00#8 0x00#8 0x00#8 []]) := by decide

/-- V-RST-1: the pending header is forgotten, the unread bytes are not. -/
theorem test_reset_forgets_the_header :
    seen (step { pending 0x01#8 0x02#8 0x01#8 [4, 0xF7, 4] with script := [.reset] })
        (fun s => (s.hdrPending, s.hdrTarget, s.lastResult, s.rx)) =
      some (false, 0x00#8, 0x0#4, bytes [4, 0xF7, 4]) := by decide

/-! ## The hypotheses of the statements are met -/

theorem witness_DecodeInvertsEncode :
    (Instr.frameHeader 0x20#8 0x00#8 0xFF#8).wellFormed = true ∧ (Instr.reservedCmd 0xFF#8).wellFormed = true ∧
      (Instr.frameTrailer 0x00#8).wellFormed = true := by decide

theorem witness_EncodeInvertsDecode :
    decode .header (bytes [1, 0x20, 0, 1, 9, 7]) = .ok (.frameHeader 0x20#8 0x00#8 0x09#8, [0x07#8]) ∧
      decode .trailer (bytes [0xF7, 4]) = .ok (.frameTrailer 0xF7#8, []) ∧
      decode .command (bytes [6]) = .ok (.encodeFrame, []) := ⟨rfl, rfl, rfl⟩

theorem witness_TrailerAcceptedByPattern :
    (pending 0x01#8 0x02#8 0x01#8 [4, 0xF7, 4]).hdrPending = true ∧
      (pending 0x01#8 0x02#8 0x01#8 [4, 0xF7, 4]).rx =
        [0x04#8] ++ (0xF704#16).extractLsb' 8 8 :: (0xF704#16).extractLsb' 0 8 :: [] ∧
      [0x04#8].length = (pending 0x01#8 0x02#8 0x01#8 [4, 0xF7, 4]).hdrLength.toNat := by decide

theorem witness_StepRunsDecodedInstruction_command :
    decode .command [0x06#8] = .ok (.encodeFrame, []) ∧
      (scripted [.command 0x06#8 []]).script = .command 0x06#8 [] :: [] := ⟨rfl, rfl⟩

theorem witness_StepRunsDecodedInstruction_units :
    decode .header (fed w3).rx = .ok (.frameHeader 0x01#8 0x02#8 0x01#8, bytes [4, 0xF7, 4]) ∧
      (fed w3).hdrPending = false ∧
      decode .trailer ((pending 0x01#8 0x02#8 0x01#8 [4, 0xF7, 4]).rx.drop 1) = .ok (.frameTrailer 0xF7#8, []) ∧
      (pending 0x01#8 0x02#8 0x01#8 [4, 0xF7, 4]).hdrPending = true := ⟨rfl, rfl, rfl, rfl⟩

theorem witness_IdleStepChangesNothing : State.reset.script = [] := rfl

theorem witness_ResetValues : (scripted [.reset]).script = .reset :: [] := rfl

/-- A whole frame unread, and the same frame supplied over and over (R164). -/
def endless : State := { fed w3 with rxSupply := bytes w3 }

theorem witness_EnvironmentMoves :
    (scripted [.feed (bytes w3)]).script = .feed (bytes w3) :: [] ∧
      (scripted [.feed (bytes w3)]).params.rxCap = none ∧
      (scripted [.args (some 0x01#8) none none none]).script = .args (some 0x01#8) none none none :: [] ∧
      (scripted [.listenOnly true]).script = .listenOnly true :: [] ∧
      (scripted [.supply (bytes w3)]).script = .supply (bytes w3) :: [] := by decide

/-- Batches to come; none and no supply; none and a supply that a header's check draws on, twice round, at the capacity. -/
theorem witness_ArrivalsLand :
    { fed [1] with rxDuring := [bytes [2, 3], bytes [4]] }.rxDuring = bytes [2, 3] :: [bytes [4]] ∧
      (fed [1]).params.rxCap = none ∧ (fed [1]).rxDuring = [] ∧ (fed [1]).rxSupply = [] ∧
      { bounded 5 .dropNewest (fed [1]) with rxSupply := bytes [2, 3] }.rxSupply ≠ [] ∧
      { bounded 5 .dropNewest (fed [1]) with rxSupply := bytes [2, 3] }.rx.length + (5 - 1) ≤ 5 ∧
      (rxArrive { bounded 5 .dropNewest (fed [1]) with rxSupply := bytes [2, 3] }).rx = bytes [1, 2, 3, 2, 3] := by
  decide

/-- The header of W3 is there; the rest of the frame and four bytes more come during the tick. -/
theorem witness_ArrivalsDuringTick :
    ([0x04#8].length = (0x01#8 : Byte).toNat ∧ (bytes [1, 2, 3, 4]).length < 5) ∧
      { fed [1, 1, 2, 1, 1] with script := [.command 0x05#8 [bytes [4, 0xF7, 4, 1, 2, 3, 4]]] }.script =
        .command 0x05#8 [[0x04#8] ++ [cksum 0x02#8 0x01#8 [0x04#8], 0x04#8] ++ bytes [1, 2, 3, 4]] :: [] ∧
      (fed [1, 1, 2, 1, 1]).rx = [0x01#8, 0x01#8, 0x02#8, 0x01#8, 0x01#8] ∧ (fed [1, 1, 2, 1, 1]).hdrPending = false ∧
      (fed [1, 1, 2, 1, 1]).params.rxCap = none ∧ (fed [1, 1, 2, 1, 1]).rxSupply = [] := by decide

/-- Two unread bytes and a capacity of 3: two bytes do not fit, one does; under each policy. -/
theorem witness_FeedKeepsCapacity :
    (∀ o : Config.Overflow, (bounded 3 o (fed [7, 8])).params.rxCap = some 3 ∧
      (bounded 3 o (fed [7, 8])).rx.length ≤ 3 ∧ (bounded 3 o (fed [7, 8])).params.rxOverflow = o) ∧
      (fed [7, 8]).rx.length + (bytes [9]).length ≤ 3 := by
  refine ⟨fun o => ?_, ?_⟩
  · cases o <;> decide
  · decide

theorem witness_HostWritesObuf : 254 + (bytes [1]).length ≤ 255 ∧ 0 + (List.replicate 255 0x00#8).length ≤ 255 :=
  ⟨by decide, by rw [List.length_replicate]⟩

theorem witness_HostWritePastObufFaults :
    (bytes [1, 2] ≠ [] ∧ 255 < 254 + (bytes [1, 2]).length) ∧ (bytes [1] ≠ [] ∧ 255 < 255 + (bytes [1]).length) := by
  decide

theorem witness_ChecksumForms : (List.replicate 255 0xFF#8).length ≤ 255 := by rw [List.length_replicate]

theorem witness_ChecksumDetection :
    (bytes [1, 2]).length = (bytes [3, 4]).length ∧ (0x00#8 : Byte) ≠ 0xFF#8 ∧ 1 < (bytes [1, 2]).length ∧
      (0x03#8 : Byte) ≠ 0x02#8 ∧ (bytes [1, 2]).Perm (bytes [2, 1]) := by decide

/-- The corners of R81, each its own. -/
theorem witness_CksumGenResult :
    (operands 0x05#8 0x06#8 0x00#8 []).argL = 0x00#8 ∧
      ((operands 0x00#8 0x00#8 0x00#8 []).argL = 0x00#8 ∧ (operands 0x00#8 0x00#8 0x00#8 []).argS = 0x00#8 ∧
        (operands 0x00#8 0x00#8 0x00#8 []).argT = 0x00#8) ∧
      (0x20 + 0x20 + (operands 0x20#8 0x20#8 0x00#8 [0xBD, 0]).argL.toNat +
        byteSum (payload (operands 0x20#8 0x20#8 0x00#8 [0xBD, 0]))) % 256 = 0xFF ∧
      (setArgs none none (some 0xFF#8) none State.reset).argL = 0xFF#8 ∧
      payload (operands 0x01#8 0x02#8 0x00#8 [4]) = [0x04#8] := by decide

theorem witness_CksumCheckResult :
    (operands 0x01#8 0x02#8 0xF7#8 [4]).argS = 0x02#8 ∧ (operands 0x01#8 0x02#8 0xF7#8 [4]).argT = 0x01#8 ∧
      payload (operands 0x01#8 0x02#8 0xF7#8 [4]) = [0x04#8] := by decide

theorem witness_EncodeFrameResult :
    [0x04#8] = (List.range (operands 0x01#8 0x02#8 0x00#8 [4]).argL.toNat).map
        (bufByte .obuf (operands 0x01#8 0x02#8 0x00#8 [4]).obuf) ∧
      0xF7#8 = cksum (operands 0x01#8 0x02#8 0x00#8 [4]).argS (operands 0x01#8 0x02#8 0x00#8 [4]).argT [0x04#8] := by
  decide

/-- For the statements about a next state: DECODE_TICK is no ENCODE_FRAME, receives, and answers one here. -/
theorem witness_next_states :
    Instr.decodeTick ≠ .encodeFrame ∧ isReceive .decodeTick = true ∧ isNext (exec .decodeTick (fed w3)) = true ∧
      isNext (exec .encodeFrame (operands 0x01#8 0x02#8 0x00#8 [4])) = true := by decide

theorem witness_EncodeThenDecodeDelivers :
    (operands 0x20#8 0x00#8 0x00#8 [4]).argT ≤ 0x20#8 ∧ (operands 0x20#8 0x00#8 0x00#8 [4]).argS ≤ 0x20#8 ∧
      (operands 0x20#8 0x00#8 0x00#8 [4]).listenOnly = false ∧ State.reset.hdrPending = false ∧
      State.reset.rxDuring = [] ∧ State.reset.rxSupply = [] ∧ (bytes [1, 1, 2, 1]).length < 5 := by decide

theorem witness_ReservedCommandResult :
    ((0x00#8 : Byte) = 0x00#8 ∨ 0x07#8 ≤ (0x00#8 : Byte)) ∧ ((0x07#8 : Byte) = 0x00#8 ∨ 0x07#8 ≤ (0x07#8 : Byte)) ∧
      (scripted [.command 0x07#8 []]).script = .command 0x07#8 [] :: [] ∧
      (scripted [.command 0x07#8 []]).rxDuring = [] := by decide

theorem witness_receive_instructions :
    isReceive .decodeTick = true ∧ isReceive .tryReadMessage = true ∧ isReceive (.frameHeader 0x01#8 0x02#8 0x01#8) = true ∧
      isReceive .encodeFrame = false ∧ (fed w3).rxDuring = [] ∧ (fed w3).rxSupply = [] := by decide

theorem witness_HeaderAcceptance :
    (fed [1, 0x20, 0x20, 1, 0xFF, 7]).hdrPending = false ∧
      (fed [1, 0x20, 0x20, 1, 0xFF, 7]).rx = 0x01#8 :: 0x20#8 :: 0x20#8 :: 0x01#8 :: 0xFF#8 :: [0x07#8] ∧
      (0x20#8 : Byte) ≤ 0x20#8 ∧
      seen (exec .tryReadHeader (fed [1, 0x20, 0x20, 1, 0xFF, 7])) (·.hdrPending) = some true := by decide

theorem witness_HeaderRejection :
    (fed [1, 0x21, 0x20, 1, 0xFF]).hdrPending = false ∧
      (fed [1, 0x21, 0x20, 1, 0xFF]).rx = 0x01#8 :: 0x21#8 :: 0x20#8 :: 0x01#8 :: 0xFF#8 :: [] ∧
      ¬ ((0x01#8 : Byte) = 0x01#8 ∧ (0x01#8 : Byte) = 0x01#8 ∧ (0x21#8 : Byte) ≤ 0x20#8 ∧ (0x20#8 : Byte) ≤ 0x20#8) := by
  decide

theorem witness_HeaderReentry :
    (pending 0x01#8 0x02#8 0x01#8 []).hdrPending = true ∧
      (pending 0x01#8 0x02#8 0x01#8 []).params.hdrAvailFirst = false ∧
      (availFirst (pending 0x01#8 0x02#8 0x03#8 [1, 2, 3, 4, 5])).hdrPending = true ∧
      5 ≤ (availFirst (pending 0x01#8 0x02#8 0x03#8 [1, 2, 3, 4, 5])).rx.length := by decide

theorem witness_HeaderDeferral :
    (fed [1, 1, 2, 1]).rx.length < 5 ∧ (fed [1, 1, 2, 1]).hdrPending = false ∧
      (availFirst (pending 0x01#8 0x02#8 0x01#8 [4, 0xF7, 4])).rx.length < 5 ∧
      (availFirst (pending 0x01#8 0x02#8 0x01#8 [4, 0xF7, 4])).params.hdrAvailFirst = true := by decide

/-- The three outcomes: valid, wrong checksum, wrong footer. -/
theorem witness_MessageJudgement :
    (pending 0x01#8 0x02#8 0x01#8 [4, 0xF7, 4]).rx = [0x04#8] ++ 0xF7#8 :: 0x04#8 :: [] ∧
      (pending 0x01#8 0x02#8 0x01#8 [4, 0xF8, 4]).rx = [0x04#8] ++ 0xF8#8 :: 0x04#8 :: [] ∧
      (pending 0x01#8 0x02#8 0x01#8 [4, 0xF7, 5]).rx = [0x04#8] ++ 0xF7#8 :: 0x05#8 :: [] ∧
      [0x04#8].length = (0x01#8 : Byte).toNat ∧ (pending 0x01#8 0x02#8 0x01#8 [4, 0xF7, 4]).hdrPending = true ∧
      0xF7#8 = cksum 0x02#8 0x01#8 [0x04#8] := by decide

theorem witness_FailedMessageLeavesPbufFree :
    (pending 0x01#8 0x02#8 0x01#8 [4, 0xF8, 4]).hdrPending = true ∧
      (pending 0x01#8 0x02#8 0x01#8 [4, 0xF8, 4]).rx = [0x04#8] ++ 0xF8#8 :: 0x04#8 :: [] ∧
      [0x04#8].length = (pending 0x01#8 0x02#8 0x01#8 [4, 0xF8, 4]).hdrLength.toNat ∧
      0xF8#8 ≠ cksum 0x02#8 0x01#8 [0x04#8] := by decide

theorem witness_MessageWithoutHeader : (fed [4, 0xF7, 4]).hdrPending = false := rfl

/-- One byte too few, of the least length and of the greatest. -/
theorem witness_MessageDeferral :
    (pending 0x01#8 0x02#8 0x00#8 [4]).hdrPending = true ∧
      (pending 0x01#8 0x02#8 0x00#8 [4]).rx.length < (pending 0x01#8 0x02#8 0x00#8 [4]).hdrLength.toNat + 2 ∧
      (pending 0x01#8 0x02#8 0xFF#8 (List.replicate 256 0)).rx.length <
        (pending 0x01#8 0x02#8 0xFF#8 (List.replicate 256 0)).hdrLength.toNat + 2 :=
  ⟨rfl, by decide, by
    show ((List.replicate 256 0).map (BitVec.ofNat 8)).length < (0xFF#8).toNat + 2
    rw [List.length_map, List.length_replicate]
    decide⟩

theorem witness_FrameHeaderUnit :
    (fed [1, 0x20, 0, 1, 9]).hdrPending = false ∧ 5 ≤ (fed [1, 0x20, 0, 1, 9]).rx.length ∧ (0x20#8 : Byte) ≤ 0x20#8 ∧
      (0x00#8 : Byte) ≤ 0x20#8 := by decide

theorem witness_FrameTrailerUnit :
    (pending 0x01#8 0x02#8 0x01#8 [4, 0xF7, 4]).hdrPending = true ∧
      (pending 0x01#8 0x02#8 0x01#8 [4, 0xF7, 4]).hdrLength.toNat + 2 ≤
        (pending 0x01#8 0x02#8 0x01#8 [4, 0xF7, 4]).rx.length ∧
      [0x04#8] = (pending 0x01#8 0x02#8 0x01#8 [4, 0xF7, 4]).rx.take 1 ∧
      0xF7#8 = cksum 0x02#8 0x01#8 [0x04#8] ∧ 0xF8#8 ≠ cksum 0x02#8 0x01#8 [0x04#8] := by decide

/-- A tick ended by its first sub-step, one by its second, one that goes on. -/
theorem witness_DecodeTickLoops :
    (∃ s1, hdrStep (fed [0, 1, 2, 1, 1]) = .ok (s1, .errStart)) ∧
      (∃ s1 s2, hdrStep (fed [1, 1, 2, 1, 1, 4]) = .ok (s1, .ok) ∧ msgStep (rxArrive s1) = .ok (s2, .needMore)) ∧
      ∃ s1 s2, hdrStep (fed w3) = .ok (s1, .ok) ∧ msgStep (rxArrive s1) = .ok (s2, .ok) :=
  ⟨⟨_, rfl⟩, ⟨_, _, rfl, rfl⟩, ⟨_, _, rfl, rfl⟩⟩

/-- One payload byte was delivered: the bytes of `PBUF` from index 1 on are those before. -/
theorem witness_TickPbufFrame :
    ∃ t, exec .decodeTick (fed w3) = .next t ∧ t.events = (fed w3).events ++ [w3Event] ∧
      t.lastResult ≠ resultCode .errChecksum ∧ t.lastResult ≠ resultCode .errFooter ∧
      ∀ e ∈ [w3Event], payloadExtent e ≤ 1 :=
  ⟨_, rfl, rfl, by decide, by decide, by decide⟩

/-- No arrivals with a bounded RX_SOURCE, and arrivals with an unbounded one; the rest of a frame comes in batches. -/
theorem witness_TickDeliversFramesOfStream :
    (bounded 8 .other (fed w3)).hdrPending = false ∧ (bounded 8 .other (fed w3)).rxSupply = [] ∧
      (bounded 8 .other (fed w3)).rxDuring = [] ∧
      { fed [1, 1, 2, 1, 1] with rxDuring := [bytes [4, 0xF7, 4], bytes [9]] }.params.rxCap = none ∧
      { fed [1, 1, 2, 1, 1] with rxDuring := [bytes [4, 0xF7, 4], bytes [9]] }.rxSupply = [] := by decide

theorem witness_TicksDrainStream : (fed w3).rxDuring = [] ∧ (fed w3).rxSupply = [] := by decide

theorem witness_EveryInstructionAnswers : Instr.encodeFrame ≠ .decodeTick ∧ (fed w3).rxSupply = [] := by decide

/-- Both sides of the equivalence: a tick that ends, and one that does not, which a supply alone makes. -/
theorem witness_TickStopsExactlyWhenEndless :
    isNext (exec .decodeTick (fed w3)) = true ∧ exec .decodeTick endless = .fault .tickUnfinished ∧
      isNext (exec .decodeTick { fed w3 with rxSupply := bytes [9] }) = true := ⟨rfl, rfl, rfl⟩

/-- The frame of W3 over and over, with no more room than its header needs; the shortest frame is `01 t s 01 00 c 04`. -/
theorem witness_EndlessValidFramesNeverEndTick :
    (bounded 5 .dropNewest endless).rx = frameBytes 0x01#8 0x02#8 [0x04#8] ∧
      (bounded 5 .dropNewest endless).rxSupply = frameBytes 0x01#8 0x02#8 [0x04#8] ∧
      (bounded 5 .dropNewest endless).hdrPending = false ∧ (bounded 5 .dropNewest endless).rxDuring = [] ∧
      (bounded 5 .dropNewest endless).params.rxCap = some 5 ∧ [0x04#8].length + 2 ≤ 5 ∧
      { endless with script := [.command 0x05#8 []] }.script = .command 0x05#8 [] :: [] := by decide

/-- A sub-step that consumed, of each command. -/
theorem witness_LateArrivalOnlyAdds :
    seen (exec .tryReadHeader (fed w3)) (fun t => decide (t.lastResult ≠ resultCode .needMore)) = some true ∧
      seen (exec .tryReadMessage (pending 0x01#8 0x02#8 0x01#8 [4, 0xF7, 4]))
        (fun t => decide (t.lastResult ≠ resultCode .needMore)) = some true := by decide

/-- V-RX-12: the frame whole, and split after its header with a tick between, during which one more byte arrives. -/
theorem witness_SplitStreamSameEvents :
    ∃ u v t w,
      State.reset.params.hdrAvailFirst = false ∧ State.reset.params.rxCap = none ∧ State.reset.rxDuring = [] ∧
      State.reset.rxSupply = [] ∧
      streamOf [(bytes w3, [])] = streamOf [(bytes [1, 1, 2, 1, 1], [[bytes [4]]]), (bytes [0xF7, 4], [])] ∧
      feedPieces [(bytes w3, [])] State.reset = .next u ∧ exec .decodeTick u = .next t ∧
      t.lastResult = resultCode .needMore ∧
      feedPieces [(bytes [1, 1, 2, 1, 1], [[bytes [4]]]), (bytes [0xF7, 4], [])] State.reset = .next v ∧
      exec .decodeTick v = .next w ∧ w.lastResult = resultCode .needMore :=
  ⟨_, _, _, _, rfl, rfl, rfl, rfl, rfl, rfl, rfl, rfl, rfl, rfl, rfl⟩

/-- Lengths 0 and 2, the least and the greatest that wait. -/
theorem witness_AvailFirstHazard :
    (pending 0x01#8 0x02#8 0x00#8 [0xFC, 4]).hdrPending = true ∧
      (pending 0x01#8 0x02#8 0x00#8 [0xFC, 4]).hdrLength.toNat + 2 ≤ (pending 0x01#8 0x02#8 0x00#8 [0xFC, 4]).rx.length ∧
      (availFirst (pending 0x01#8 0x02#8 0x02#8 [1, 2, 3, 4])).hdrPending = true ∧
      (availFirst (pending 0x01#8 0x02#8 0x02#8 [1, 2, 3, 4])).rx.length = 4 ∧
      (availFirst (pending 0x01#8 0x02#8 0x02#8 [1, 2, 3, 4])).params.hdrAvailFirst = true ∧
      (pending 0x01#8 0x02#8 0x02#8 [1, 2, 3, 4]).params.hdrAvailFirst = false ∧
      (pending 0x01#8 0x02#8 0x02#8 [1, 2, 3, 4]).rxDuring = [] ∧
      (pending 0x01#8 0x02#8 0x02#8 [1, 2, 3, 4]).rxSupply = [] := by decide

theorem witness_PendingAddressesStayLegal :
    pendingAddressesLegal (pending 0x20#8 0x20#8 0x01#8 []) = true ∧
      isNext (step { pending 0x20#8 0x20#8 0x01#8 [4] with script := [.command 0x05#8 []] }) = true := by decide

/-- A state that satisfies the invariant and takes a step that delivers. -/
theorem witness_StepKeepsInvariant :
    blockInv { fed w3 with script := [.command 0x05#8 []] } ∧
      isNext (step { fed w3 with script := [.command 0x05#8 []] }) = true := by decide

/-- A capacity of 256 cannot hold the 257 bytes that length 255 needs; a FEED is a step that is no RESET. -/
theorem witness_StallLastsUntilReset :
    stalled (bounded 256 .dropOldest (pending 0x01#8 0x02#8 0xFF#8 [])) = true ∧
      isNext (step { bounded 256 .dropOldest (pending 0x01#8 0x02#8 0xFF#8 []) with
        script := [.feed (bytes [1])] }) = true ∧
      (bounded 257 .dropOldest State.reset).params.rxCap = some 257 := by decide

end Sys2Proof.Tests
end

section
/-! The scope of the model (00_scope.md): what a bounded RX_SOURCE holds after a FEED, and the block's invariant under
every step. -/

namespace Sys2Proof.Machine

/-! ### One byte appended to a bounded RX_SOURCE (R42) -/

@[simp] theorem rxAppendByte_params (b : Byte) (s : State) : (rxAppendByte b s).params = s.params :=
  rxAppend_params [b] s

theorem rxFull_iff {s : State} {cap : Nat} (hc : s.params.rxCap = some cap) :
    rxFull s = true ↔ cap ≤ s.rx.length := by
  simp [rxFull, hc]

/-- A byte that finds room goes behind the unread bytes. -/
theorem rxAppendByte_room {s : State} {cap : Nat} (hc : s.params.rxCap = some cap) (b : Byte)
    (h : s.rx.length < cap) : rxAppendByte b s = { s with rx := s.rx ++ [b] } := by
  have hf : ¬ rxFull s = true := by rw [rxFull_iff hc]; omega
  simp [rxAppendByte, hf]

/-- What becomes of the unread bytes when a byte finds no room is the policy's to say. -/
theorem rxAppendByte_full_rx {s : State} {cap : Nat} (hc : s.params.rxCap = some cap) (b : Byte)
    (h : cap ≤ s.rx.length) :
    (rxAppendByte b s).rx = overflowed s.params.rxOverflow s.overflowCount s.rx b := by
  simp [rxAppendByte, (rxFull_iff hc).mpr h]

theorem rxAppendByte_length_eq {s : State} {cap : Nat} (hc : s.params.rxCap = some cap) (b : Byte)
    (h : s.rx.length ≤ cap) : (rxAppendByte b s).rx.length = min cap (s.rx.length + 1) := by
  by_cases hroom : s.rx.length < cap
  · rw [rxAppendByte_room hc b hroom, List.length_append, List.length_singleton]
    omega
  · rw [rxAppendByte_full_rx hc b (by omega), overflowed_length]
    omega

theorem rxAppendByte_dropNewest {s : State} {cap : Nat} (hc : s.params.rxCap = some cap) (b : Byte)
    (h : s.rx.length ≤ cap) (hp : s.params.rxOverflow = .dropNewest) :
    (rxAppendByte b s).rx = (s.rx ++ [b]).take cap := by
  by_cases hroom : s.rx.length < cap
  · rw [rxAppendByte_room hc b hroom, List.take_of_length_le (by simpa using hroom)]
  · have hlen : s.rx.length = cap := by omega
    rw [rxAppendByte_full_rx hc b (by omega), hp, ← hlen, List.take_left]
    rfl

theorem rxAppendByte_dropOldest {s : State} {cap : Nat} (hc : s.params.rxCap = some cap) (b : Byte)
    (h : s.rx.length ≤ cap) (hp : s.params.rxOverflow = .dropOldest) :
    (rxAppendByte b s).rx = (s.rx ++ [b]).drop (s.rx.length + 1 - cap) := by
  by_cases hroom : s.rx.length < cap
  · have hnone : s.rx.length + 1 - cap = 0 := by omega
    rw [rxAppendByte_room hc b hroom, hnone, List.drop_zero]
  · have hone : s.rx.length + 1 - cap = 1 := by omega
    rw [rxAppendByte_full_rx hc b (by omega), hp, hone]
    rfl

/-! ### Bytes appended to a bounded RX_SOURCE -/

theorem rxAppend_length_eq {bs : List Byte} {s : State} {cap : Nat} (hc : s.params.rxCap = some cap)
    (h : s.rx.length ≤ cap) : (rxAppend bs s).rx.length = min cap (s.rx.length + bs.length) := by
  induction bs generalizing s with
  | nil => simp [rxAppend, h]
  | cons b bs ih =>
    have hb := rxAppendByte_length_eq hc b h
    rw [rxAppend, ih (by simpa using hc) (by omega), List.length_cons]
    omega

/-- Bytes that all find room are all kept, whatever the policy. -/
theorem rxAppend_fits {bs : List Byte} {s : State} {cap : Nat} (hc : s.params.rxCap = some cap)
    (h : s.rx.length + bs.length ≤ cap) : (rxAppend bs s).rx = s.rx ++ bs := by
  induction bs generalizing s with
  | nil => simp [rxAppend]
  | cons b bs ih =>
    rw [List.length_cons] at h
    have hb := rxAppendByte_room hc b (by omega)
    rw [rxAppend, ih (by simpa using hc) (by simp [hb]; omega), hb, List.append_assoc, List.singleton_append]

/-- `dropNewest` keeps the first bytes the capacity holds. -/
theorem rxAppend_dropNewest {bs : List Byte} {s : State} {cap : Nat} (hc : s.params.rxCap = some cap)
    (h : s.rx.length ≤ cap) (hp : s.params.rxOverflow = .dropNewest) :
    (rxAppend bs s).rx = (s.rx ++ bs).take cap := by
  induction bs generalizing s with
  | nil => simp [rxAppend, List.take_of_length_le h]
  | cons b bs ih =>
    have hb := rxAppendByte_length_eq hc b h
    rw [rxAppend, ih (by simpa using hc) (by omega) (by simpa using hp), rxAppendByte_dropNewest hc b h hp,
      List.append_cons s.rx b bs]
    by_cases hroom : s.rx.length < cap
    · rw [List.take_of_length_le (l := s.rx ++ [b]) (by simpa using hroom)]
    · have hle : cap ≤ (s.rx ++ [b]).length := by simp; omega
      rw [List.take_append_of_le_length hle, List.take_append_of_le_length (by simp; omega), List.take_take,
        Nat.min_self]

/-- `dropOldest` keeps the last bytes the capacity holds. -/
theorem rxAppend_dropOldest {bs : List Byte} {s : State} {cap : Nat} (hc : s.params.rxCap = some cap)
    (h : s.rx.length ≤ cap) (hp : s.params.rxOverflow = .dropOldest) :
    (rxAppend bs s).rx = (s.rx ++ bs).drop (s.rx.length + bs.length - cap) := by
  induction bs generalizing s with
  | nil => simp [rxAppend, Nat.sub_eq_zero_of_le h]
  | cons b bs ih =>
    have hb := rxAppendByte_length_eq hc b h
    rw [rxAppend, ih (by simpa using hc) (by omega) (by simpa using hp), hb, rxAppendByte_dropOldest hc b h hp,
      ← List.drop_append_of_le_length (by simp), List.drop_drop, ← List.append_cons, List.length_cons]
    congr 1
    omega

/-- Settles O12: a FEED is an append, and an append does to the unread bytes what the capacity and the policy say. -/
theorem feedKeepsCapacity : Obligations.FeedKeepsCapacity := by
  intro s rest bytes cap hscript hc hlen
  obtain ⟨held, count, happ, -⟩ := rxAppend_cases bytes (setScript rest s)
  have hheld : (rxAppend bytes (setScript rest s)).rx = held := by rw [happ]
  have hstep : step s = .next (rxAppend bytes (setScript rest s)) := by simp [step, runScript, hscript, perform]
  refine ⟨held, count, by rw [hstep, happ]; rfl, ?_⟩
  rw [← hheld]
  have hc' : (setScript rest s).params.rxCap = some cap := hc
  exact ⟨rxAppend_length_eq hc' hlen, rxAppend_fits hc', rxAppend_dropNewest hc' hlen, rxAppend_dropOldest hc' hlen⟩

/-! ### The invariant that also holds while a command runs -/

/-- `blockInv` without its last clause: while a command runs RX_SOURCE may still have batches to append (R52). -/
structure RunInv (s : State) : Prop where
  pending : pendingAddressesLegal s = true
  result : resultLegal s = true
  events : s.events.all eventLegal = true
  cap : rxWithinCap s = true
  buffers : buffersWf s

theorem blockInv_iff (s : State) : blockInv s ↔ RunInv s ∧ s.rxDuring = [] := by
  constructor
  · rintro ⟨hpend, hres, hev, hcap, hbuf, hdur⟩
    exact ⟨⟨hpend, hres, hev, hcap, hbuf⟩, hdur⟩
  · rintro ⟨⟨hpend, hres, hev, hcap, hbuf⟩, hdur⟩
    exact ⟨hpend, hres, hev, hcap, hbuf, hdur⟩

/-- No result has a reserved code (R67). -/
theorem reservedResult_resultCode (r : Result) : reservedResult (resultCode r) = false := by
  cases r <;> rfl

/-- A header is only ever rejected with an error (R130). -/
theorem rejection_isError_of_decodeHeader {b0 b1 b2 b3 b4 : Byte} {e : DecodeError}
    (h : decodeHeader b0 b1 b2 b3 b4 = .error e) : (rejection e).isError = true := by
  obtain ⟨rfl, -⟩ | ⟨rfl, -⟩ | ⟨rfl, -⟩ | ⟨rfl, -⟩ := decodeHeader_error _ _ _ _ _ _ h <;> rfl

/-- A command code never decodes to a unit of the wire (R64, R66). -/
theorem decodeCommand_space (op : Byte) : (decodeCommand op).space = .command := by
  unfold decodeCommand
  split_ifs <;> rfl

namespace RunInv

variable {s t : State}

/-! What each update of the state needs to keep the invariant. -/

theorem setResult (h : RunInv s) (r : Result) : RunInv (setResult r s) :=
  { h with result := by simp [resultLegal, reservedResult_resultCode] }

theorem loadHeader (h : RunInv s) {a sd : Byte} (l : Byte) (ha : legalAddr a = true) (hs : legalAddr sd = true) :
    RunInv (loadHeader a sd l s) :=
  { h with pending := by simp [pendingAddressesLegal, ha, hs] }

theorem clearPending (h : RunInv s) : RunInv (clearPending s) :=
  { h with pending := by simp [pendingAddressesLegal] }

theorem setPbuf (h : RunInv s) {b : Buffer} (hb : Memory.wf b.cells) : RunInv (setPbuf b s) :=
  { h with buffers := ⟨hb, h.buffers.2⟩ }

theorem setObuf (h : RunInv s) {b : Buffer} (hb : Memory.wf b.cells) : RunInv (setObuf b s) :=
  { h with buffers := ⟨h.buffers.1, hb⟩ }

theorem emit (h : RunInv s) {e : Event} (he : eventLegal e = true) : RunInv (emit e s) :=
  { h with events := by simpa [he] using h.events }

theorem raise (h : RunInv s) {e : Result} (he : e.isError = true) : RunInv (raise e s) :=
  (h.setResult e).emit he

theorem rxAdvance (h : RunInv s) (n : Nat) : RunInv (rxAdvance n s) :=
  { h with
    cap := (rxWithinCap_iff _).mpr fun cap hc =>
      (List.drop_sublist n s.rx).length_le.trans ((rxWithinCap_iff s).mp h.cap cap hc) }

theorem resetBlock (h : RunInv s) : RunInv (resetBlock s) :=
  { h with
    pending := by simp [pendingAddressesLegal]
    result := by simp [resultLegal, reservedResult_resultCode]
    buffers := ⟨bufForget_wf _, bufForget_wf _⟩ }

/-! What RX_SOURCE appends. -/

theorem rxAppend (h : RunInv s) (bs : List Byte) : RunInv (rxAppend bs s) := by
  have hcap : rxWithinCap (Machine.rxAppend bs s) = true :=
    (rxWithinCap_iff _).mpr fun cap hc => by
      rw [rxAppend_params] at hc
      exact rxAppend_within hc ((rxWithinCap_iff s).mp h.cap cap hc)
  obtain ⟨held, count, happ, -⟩ := rxAppend_cases bs s
  rw [happ] at hcap ⊢
  exact { h with cap := hcap }

theorem rxDraw (h : RunInv s) (n : Nat) : RunInv (rxDraw n s) := by
  have hcap : rxWithinCap (Machine.rxDraw n s) = true :=
    (rxWithinCap_iff _).mpr fun cap hc => by
      rw [rxDraw_params] at hc
      exact rxDraw_within hc ((rxWithinCap_iff s).mp h.cap cap hc)
  obtain ⟨held, left, hdraw, -⟩ := rxDraw_cases n s
  rw [hdraw] at hcap ⊢
  exact { h with cap := hcap }

theorem withDuring (h : RunInv s) (during : List (List Byte)) : RunInv { s with rxDuring := during } :=
  { h with }

theorem rxArrive (h : RunInv s) : RunInv (rxArrive s) := by
  cases hd : s.rxDuring with
  | nil =>
    rw [rxArrive_draw hd]
    exact h.rxDraw _
  | cons batch more =>
    rw [rxArrive_batch hd]
    exact (h.withDuring more).rxAppend batch

theorem rxSettle (h : RunInv s) : RunInv (rxSettle s) :=
  (h.withDuring []).rxAppend _

/-! The sub-steps and the commands. -/

/-- Only a header with legal addresses is loaded, and a rejected one makes an error's Diag (R92, R93). -/
theorem hdrStep {r : Result} (h : RunInv s) (hstep : hdrStep s = .ok (t, r)) : RunInv t := by
  obtain ⟨-, rfl⟩ | ⟨b0, b1, b2, b3, b4, rest, -, -, ⟨hok, -, rfl⟩ | ⟨e, herr, rfl, rfl⟩⟩ := hdrStep_cases hstep
  · exact h
  · obtain ⟨-, -, htarget, hsender, -⟩ := (decodeHeader_ok_iff _ _ _ _ _ _).mp hok
    exact (h.rxAdvance 5).loadHeader b4 htarget hsender
  · exact (h.rxAdvance 5).raise (rejection_isError_of_decodeHeader herr)

theorem afterMessage (h : RunInv s) {p : List Byte} (hp : p.length ≤ Config.bufLen) : RunInv (afterMessage p s) :=
  ((h.setPbuf (bufFill_wf _ 0 p h.buffers.1 (.inr (by omega)))).rxAdvance _).clearPending

theorem rejectMessage (h : RunInv s) {e : Result} (he : e.isError = true) : RunInv (rejectMessage e s).1 :=
  (h.setPbuf (bufForget_wf _)).raise he

/-- A frame is delivered under the pending header, whose addresses are legal, with as many bytes as it announced
(R97, R102). -/
theorem msgStep {r : Result} (h : RunInv s) (hstep : msgStep s = .ok (t, r)) : RunInv t := by
  obtain ⟨-, rfl⟩ | ⟨p, c, f, rest, hgate, -, hlen, hend⟩ := msgStep_cases hstep
  · exact h
  · have hpend := ((msgGate_none_iff s).mp hgate).1
    obtain ⟨htarget, hsender⟩ := (pendingAddressesLegal_iff s).mp h.pending hpend
    have hp : p.length ≤ Config.bufLen := by rw [hlen]; exact Nat.le_of_lt_succ s.hdrLength.isLt
    obtain ⟨-, -, -, rfl⟩ | ⟨-, -, rfl⟩ | ⟨-, -, -, rfl⟩ := hend
    · exact (h.afterMessage hp).emit (by simp [eventLegal, htarget, hsender, hlen])
    · exact (h.afterMessage hp).rejectMessage rfl
    · exact (h.afterMessage hp).rejectMessage rfl

theorem tickLoop {n : Nat} {r : Result} (h : RunInv s) (hloop : tickLoop n s = .ok (t, r)) : RunInv t := by
  refine tickLoop_induct (P := fun s t _ => RunInv s → RunInv t) ?hdrEnds ?msgEnds ?goesOn hloop h
  case hdrEnds => exact fun _ _ _ hhdr _ h => h.hdrStep hhdr
  case msgEnds => exact fun _ _ _ _ hhdr hmsg _ h => (h.hdrStep hhdr).rxArrive.msgStep hmsg
  case goesOn => exact fun _ _ _ _ _ hhdr hmsg ih h => ih ((h.hdrStep hhdr).rxArrive.msgStep hmsg).rxArrive

theorem txWriteAll (h : RunInv s) (vs : List Byte) : RunInv (txWriteAll vs s) := by
  rw [txWriteAll_eq]
  exact { h with }

/-- A command keeps the invariant if the work before its result is written does. -/
theorem finish {x : Except Fault (State × Result)} (hx : ∀ s' r, x = .ok (s', r) → RunInv s')
    (hfin : finish x = .next t) : RunInv t := by
  obtain ⟨s', r, hok, rfl⟩ := finish_next hfin
  exact (hx s' r hok).setResult r

/-- The commands that compute a checksum write `CK_RESULT`, of which the invariant says nothing, before the rest. -/
theorem withChecksum {k : List Byte → Byte → State → State × Result} (h : RunInv s)
    (hk : ∀ p c s', RunInv s' → RunInv (k p c s').1) (hfin : Machine.finish (withChecksum s k) = .next t) :
    RunInv t := by
  rw [withChecksum_ok] at hfin
  refine finish (fun s' r hok => ?_) hfin
  have hend := hk (payload s) (cksum s.argS s.argT (payload s)) _
    ({ h with } : RunInv (setCkResult (cksum s.argS s.argT (payload s)) s))
  rwa [Except.ok.inj hok] at hend

/-- Every command of the HOST keeps the invariant. -/
theorem exec {i : Instr} (hi : i.space = .command) (h : RunInv s) (hexec : exec i s = .next t) : RunInv t := by
  cases i with
  | cksumGen => exact h.withChecksum (fun _ _ _ h' => h') hexec
  | cksumCheck => exact h.withChecksum (fun _ _ _ h' => { h' with }) hexec
  | tryReadHeader => exact finish (fun _ _ hok => h.hdrStep hok) hexec
  | tryReadMessage => exact finish (fun _ _ hok => h.msgStep hok) hexec
  | decodeTick => exact finish (fun _ _ hok => h.tickLoop hok) hexec
  | encodeFrame =>
    refine h.withChecksum (fun p c s' h' => ?_) hexec
    split
    · exact h'
    · exact h'.txWriteAll _
  | reservedCmd op =>
    refine finish (x := .ok (Machine.raise .errCmd s, .errCmd)) (fun s' r hok => ?_) hexec
    obtain ⟨rfl, -⟩ := Prod.mk.inj (Except.ok.inj hok)
    exact h.raise rfl
  | frameHeader a sd l => cases hi
  | frameTrailer c => cases hi

end RunInv

/-- Every move keeps the block's invariant: a command's batches have all landed when its step ends. -/
theorem perform_keeps_blockInv {a : Action} {s t : State} (h : blockInv s) (hmove : perform a s = .next t) :
    blockInv t := by
  rw [blockInv_iff] at h ⊢
  obtain ⟨hrun, hdur⟩ := h
  obtain ⟨bytes, -, rfl⟩ | ⟨_, _, _, _, -, rfl⟩ | ⟨start, bytes, -, hrange, rfl⟩ | ⟨op, during, t', -, hexec, rfl⟩ |
    ⟨bytes, -, rfl⟩ | ⟨-, rfl⟩ | ⟨level, -, rfl⟩ := perform_cases hmove
  · -- feed
    exact ⟨hrun.rxAppend bytes, by simpa using hdur⟩
  · -- args
    exact ⟨{ hrun with }, hdur⟩
  · -- writeObuf
    exact ⟨hrun.setObuf (bufFill_wf _ _ _ hrun.buffers.2 hrange), hdur⟩
  · -- command
    have hissue : RunInv (issue op during s) := { hrun with }
    exact ⟨(hissue.exec (decodeCommand_space op) hexec).rxSettle, rxSettle_rxDuring t'⟩
  · -- supply
    exact ⟨{ hrun with }, hdur⟩
  · -- reset
    exact ⟨hrun.resetBlock, hdur⟩
  · -- listenOnly
    exact ⟨{ hrun with }, hdur⟩

/-- Settles O52: a step stays idle or makes the script's next move, and every move keeps the invariant. -/
theorem stepKeepsInvariant : Obligations.StepKeepsInvariant := by
  intro s t h hstep
  obtain ⟨-, hidle⟩ | ⟨a, rest, -, hmove⟩ := runScript_cases hstep
  · cases hidle
    exact h
  · exact perform_keeps_blockInv (s := setScript rest s) h hmove.symm

end Sys2Proof.Machine
end

section
/-! The receive instructions as runs of sub-steps: what one sub-step can do, said once for HDR_STEP and MSG_STEP on the
stream and on a unit given as an instruction's operands (log 10), and a tick as a chain of sub-steps with RX_SOURCE's
appends between them (R52, R111). -/

namespace Sys2Proof.Machine

/-! ### Sub-steps -/

/-- What HDR_STEP and MSG_STEP can do: consume nothing, or consume a header or a message, which is good or is not (R91
to R104). -/
inductive SubStep (s : State) : State → Result → Prop
  | waits {r : Result} (hr : r.isError = false) : SubStep s s r
  | accepts {t sd l : Byte} (hlen : 5 ≤ s.rx.length) (ht : legalAddr t = true) (hsd : legalAddr sd = true) :
      SubStep s (loadHeader t sd l (rxAdvance 5 s)) .ok
  | rejectsHeader {e : Result} (hlen : 5 ≤ s.rx.length) (he : e.isError = true) :
      SubStep s (raise e (rxAdvance 5 s)) e
  | delivers {p : List Byte} (hlen : p.length + 2 ≤ s.rx.length) :
      SubStep s (emit (.deliver s.hdrTarget s.hdrSender s.hdrLength p) (afterMessage p s)) .ok
  | rejectsMessage {p : List Byte} {e : Result} (hlen : p.length + 2 ≤ s.rx.length)
      (he : e = .errChecksum ∨ e = .errFooter) : SubStep s (rejectMessage e (afterMessage p s)).1 e

theorem hdrVerdict_subStep {s : State} (b0 b1 b2 b3 b4 : Byte) (hlen : 5 ≤ s.rx.length) :
    SubStep s (hdrVerdict b0 b1 b2 b3 b4 (rxAdvance 5 s)).1 (hdrVerdict b0 b1 b2 b3 b4 (rxAdvance 5 s)).2 := by
  unfold hdrVerdict
  cases hd : decodeHeader b0 b1 b2 b3 b4 with
  | ok i =>
    obtain ⟨-, -, ht, hsd, -⟩ := (decodeHeader_ok_iff _ _ _ _ _ _).mp hd
    exact .accepts hlen ht hsd
  | error e => exact .rejectsHeader hlen (rejection_isError_of_decodeHeader hd)

/-! The three verdicts on a message (R100 to R102). -/

theorem msgVerdict_of_checksum_ne {p : List Byte} {c f : Byte} {s : State} (hc : c ≠ cksum s.hdrSender s.hdrTarget p) :
    msgVerdict p c f s = rejectMessage .errChecksum s := if_pos hc

theorem msgVerdict_of_footer_ne {p : List Byte} {c f : Byte} {s : State} (hc : c = cksum s.hdrSender s.hdrTarget p)
    (hf : f ≠ Config.footerMark) : msgVerdict p c f s = rejectMessage .errFooter s := by
  simp [msgVerdict, hc, decodeTrailer, hf, rejection]

theorem msgVerdict_of_valid {p : List Byte} {c f : Byte} {s : State} (hc : c = cksum s.hdrSender s.hdrTarget p)
    (hf : f = Config.footerMark) :
    msgVerdict p c f s = (emit (.deliver s.hdrTarget s.hdrSender s.hdrLength p) s, .ok) := by
  simp [msgVerdict, hc, decodeTrailer, hf]

theorem msgVerdict_subStep {s : State} {p : List Byte} (c f : Byte) (hlen : p.length + 2 ≤ s.rx.length) :
    SubStep s (msgVerdict p c f (afterMessage p s)).1 (msgVerdict p c f (afterMessage p s)).2 := by
  by_cases hc : c = cksum (afterMessage p s).hdrSender (afterMessage p s).hdrTarget p
  · by_cases hf : f = Config.footerMark
    · rw [msgVerdict_of_valid hc hf]
      exact .delivers hlen
    · rw [msgVerdict_of_footer_ne hc hf]
      exact .rejectsMessage hlen (.inr rfl)
  · rw [msgVerdict_of_checksum_ne hc]
    exact .rejectsMessage hlen (.inl rfl)

/-- The five bytes HDR_STEP judges: the unit, or the head of the stream. -/
theorem header_five {unit : Option (List Byte)} {s : State} (hu : ∀ u ∈ unit, u.length = 5) (hg : hdrGate s = none) :
    ∃ b0 b1 b2 b3 b4, unit.getD (s.rx.take 5) = [b0, b1, b2, b3, b4] := by
  cases unit with
  | none =>
    obtain ⟨b0, b1, b2, b3, b4, rest, hr⟩ := rx_five hg
    exact ⟨b0, b1, b2, b3, b4, by simp [hr]⟩
  | some u =>
    match u, hu u rfl with
    | [b0, b1, b2, b3, b4], _ => exact ⟨b0, b1, b2, b3, b4, rfl⟩

/-- The two bytes MSG_STEP judges: the unit, or those after the payload. -/
theorem trailer_two {unit : Option (List Byte)} (hu : ∀ u ∈ unit, u.length = 2) (c' f' : Byte) :
    ∃ c f, unit.getD [c', f'] = [c, f] := by
  cases unit with
  | none => exact ⟨c', f', rfl⟩
  | some u => exact List.length_eq_two.mp (hu u rfl)

theorem hdrStepOn_subStep {unit : Option (List Byte)} (hu : ∀ u ∈ unit, u.length = 5) (s : State) :
    ∃ t r, hdrStepOn unit s = .ok (t, r) ∧ SubStep s t r := by
  cases hg : hdrGate s with
  | some r =>
    refine ⟨s, r, hdrStepOn_wait hg, .waits ?_⟩
    obtain ⟨rfl, -⟩ | ⟨rfl, -⟩ := hdrGate_some hg <;> rfl
  | none =>
    obtain ⟨b0, b1, b2, b3, b4, hb⟩ := header_five hu hg
    exact ⟨_, _, hdrStepOn_go hg hb, hdrVerdict_subStep b0 b1 b2 b3 b4 ((hdrGate_none_iff s).mp hg).2⟩

theorem msgStepOn_subStep {unit : Option (List Byte)} (hu : ∀ u ∈ unit, u.length = 2) (s : State) :
    ∃ t r, msgStepOn unit s = .ok (t, r) ∧ SubStep s t r := by
  cases hg : msgGate s with
  | some r =>
    refine ⟨s, r, msgStepOn_wait hg, .waits ?_⟩
    obtain ⟨rfl, -⟩ | ⟨rfl, -⟩ := msgGate_some hg <;> rfl
  | none =>
    obtain ⟨p, c', f', rest, hr, hl⟩ := rx_message hg
    obtain ⟨c, f, hb⟩ := trailer_two hu c' f'
    exact ⟨_, _, msgStepOn_go ((msgGate_none_iff s).mp hg).1 hr hl hb, msgVerdict_subStep c f (by simp [hr])⟩

theorem hdrStep_subStep {s t : State} {r : Result} (h : hdrStep s = .ok (t, r)) : SubStep s t r := by
  obtain ⟨t', r', hok, hsub⟩ := hdrStepOn_subStep (unit := none) (by simp) s
  obtain ⟨rfl, rfl⟩ := Prod.mk.inj (Except.ok.inj (hok.symm.trans h))
  exact hsub

theorem msgStep_subStep {s t : State} {r : Result} (h : msgStep s = .ok (t, r)) : SubStep s t r := by
  obtain ⟨t', r', hok, hsub⟩ := msgStepOn_subStep (unit := none) (by simp) s
  obtain ⟨rfl, rfl⟩ := Prod.mk.inj (Except.ok.inj (hok.symm.trans h))
  exact hsub

/-! ### Runs of sub-steps -/

/-- A receive instruction's work before its result is written: one sub-step, or a sub-step that is OK, an append by
RX_SOURCE, and a run from there. -/
inductive ReceiveRun : State → State → Result → Prop
  | last {s t : State} {r : Result} (h : SubStep s t r) : ReceiveRun s t r
  | more {s s1 t : State} {r : Result} (h : SubStep s s1 .ok) (hrun : ReceiveRun (rxArrive s1) t r) :
      ReceiveRun s t r

theorem tickLoop_run {n : Nat} {s t : State} {r : Result} (h : tickLoop n s = .ok (t, r)) : ReceiveRun s t r := by
  refine tickLoop_induct (P := ReceiveRun) ?hdrEnds ?msgEnds ?goesOn h
  case hdrEnds => exact fun _ _ _ hhdr _ => .last (hdrStep_subStep hhdr)
  case msgEnds => exact fun _ _ _ _ hhdr hmsg _ => .more (hdrStep_subStep hhdr) (.last (msgStep_subStep hmsg))
  case goesOn =>
    exact fun _ _ _ _ _ hhdr hmsg hrun => .more (hdrStep_subStep hhdr) (.more (msgStep_subStep hmsg) hrun)

/-- The receive instructions are the two sub-steps, each on the stream or on a given unit, and DECODE_TICK. -/
theorem exec_receive_forms {i : Instr} (hi : isReceive i = true) :
    (∃ unit : Option (List Byte), (∀ u ∈ unit, u.length = 5) ∧ ∀ s, exec i s = finish (hdrStepOn unit s)) ∨
      (∃ unit : Option (List Byte), (∀ u ∈ unit, u.length = 2) ∧ ∀ s, exec i s = finish (msgStepOn unit s)) ∨
      i = .decodeTick := by
  cases i with
  | tryReadHeader => exact .inl ⟨none, by simp, fun _ => rfl⟩
  | frameHeader t sd l => exact .inl ⟨some (headerBytes t sd l), by simp [headerBytes], fun _ => rfl⟩
  | tryReadMessage => exact .inr (.inl ⟨none, by simp, fun _ => rfl⟩)
  | frameTrailer c => exact .inr (.inl ⟨some (trailerBytes c), by simp [trailerBytes], fun _ => rfl⟩)
  | decodeTick => exact .inr (.inr rfl)
  | cksumGen => cases hi
  | cksumCheck => cases hi
  | encodeFrame => cases hi
  | reservedCmd op => cases hi

/-- Every receive instruction but DECODE_TICK is one sub-step, from every state. -/
theorem exec_subStep {i : Instr} (hi : isReceive i = true) (htick : i ≠ .decodeTick) (s : State) :
    ∃ t r, SubStep s t r ∧ exec i s = .next (setResult r t) := by
  obtain ⟨unit, hu, hform⟩ | ⟨unit, hu, hform⟩ | rfl := exec_receive_forms hi
  · obtain ⟨t, r, hok, hsub⟩ := hdrStepOn_subStep hu s
    exact ⟨t, r, hsub, by rw [hform, hok, finish_ok]⟩
  · obtain ⟨t, r, hok, hsub⟩ := msgStepOn_subStep hu s
    exact ⟨t, r, hsub, by rw [hform, hok, finish_ok]⟩
  · exact absurd rfl htick

theorem exec_decodeTick_run {s t : State} (h : exec .decodeTick s = .next t) :
    ∃ t' r, ReceiveRun s t' r ∧ t = setResult r t' := by
  obtain ⟨t', r, hok, rfl⟩ := finish_next h
  exact ⟨t', r, tickLoop_run hok, rfl⟩

/-- Everything a receive instruction that answers can do. -/
theorem exec_receive_run {i : Instr} {s t : State} (hi : isReceive i = true) (h : exec i s = .next t) :
    ∃ t' r, ReceiveRun s t' r ∧ t = setResult r t' := by
  by_cases htick : i = .decodeTick
  · subst htick
    exact exec_decodeTick_run h
  · obtain ⟨t', r, hsub, hexec⟩ := exec_subStep hi htick s
    rw [hexec] at h
    exact ⟨t', r, .last hsub, (Host.Outcome.next.inj h).symm⟩

/-- The Diag event a result makes: one exactly when it is an error (R133). -/
def diagOf (r : Result) : List Event := if r.isError then [.diag r] else []

theorem diagOf_error {r : Result} (h : r.isError = true) : diagOf r = [.diag r] := by simp [diagOf, h]

theorem diagOf_not_error {r : Result} (h : r.isError = false) : diagOf r = [] := by simp [diagOf, h]

/-- A command that ends with no error makes no Diag. -/
theorem finish_of_not_error {r : Result} (h : r.isError = false) (t : State) :
    finish (.ok (t, r)) = .next { t with lastResult := resultCode r, events := t.events ++ diagOf r } := by
  rw [diagOf_not_error h, List.append_nil]
  rfl

/-- Everything the other instructions can do: they answer from every state, and write the checksum results, TX and
their own result with its Diag, and no more. -/
theorem exec_other {i : Instr} (hi : isReceive i = false) (s : State) :
    ∃ k b w r, exec i s = .next { s with
      ckResult := k, chkMatch := b, tx := w, lastResult := resultCode r, events := s.events ++ diagOf r } := by
  cases i with
  | cksumGen =>
    refine ⟨cksum s.argS s.argT (payload s), s.chkMatch, s.tx, .ok, ?_⟩
    rw [exec, execCksumGen, withChecksum_ok]
    exact finish_of_not_error rfl _
  | cksumCheck =>
    refine ⟨cksum s.argS s.argT (payload s), matchFlag s.argC (cksum s.argS s.argT (payload s)), s.tx, .ok, ?_⟩
    rw [exec, execCksumCheck, withChecksum_ok]
    exact finish_of_not_error rfl _
  | encodeFrame =>
    simp only [exec, execEncodeFrame, withChecksum_ok]
    split
    · exact ⟨cksum s.argS s.argT (payload s), s.chkMatch, s.tx, .txSuppressed, finish_of_not_error rfl _⟩
    · rw [txWriteAll_eq]
      exact ⟨cksum s.argS s.argT (payload s), s.chkMatch, _, .ok, finish_of_not_error rfl _⟩
  | reservedCmd op => exact ⟨s.ckResult, s.chkMatch, s.tx, .errCmd, rfl⟩
  | tryReadHeader => cases hi
  | tryReadMessage => cases hi
  | decodeTick => cases hi
  | frameHeader t sd l => cases hi
  | frameTrailer c => cases hi

end Sys2Proof.Machine
end

section
/-! The frame of the instructions (10_state.md R25 to R28): what the block never writes, what the receive instructions
never write, and that they do not look at the pin. -/

namespace Sys2Proof.Machine

/-! ### What the receive instructions leave alone -/

/-- The state with all that a receive instruction may write blotted out: two states that then look alike agree on the
rest. -/
def beyondReceive (s : State) : State :=
  { s with
    hdrPending := false, hdrTarget := 0x00#8, hdrSender := 0x00#8, hdrLength := 0x00#8, pbuf := Buffer.reset,
    lastResult := 0x0#4, rxPos := 0, rx := [], events := [], rxDuring := [], rxSupply := [], overflowCount := 0 }

theorem beyondReceive_eq_iff (s t : State) :
    beyondReceive t = beyondReceive s ↔
      t.ckResult = s.ckResult ∧ t.chkMatch = s.chkMatch ∧ t.cmdOp = s.cmdOp ∧ t.argT = s.argT ∧ t.argS = s.argS ∧
        t.argL = s.argL ∧ t.argC = s.argC ∧ t.obuf = s.obuf ∧ t.listenOnly = s.listenOnly ∧ t.tx = s.tx ∧
        t.params = s.params ∧ t.script = s.script := by
  simp [beyondReceive]

theorem SubStep.beyondReceive_eq {s t : State} {r : Result} (h : SubStep s t r) :
    beyondReceive t = beyondReceive s := by
  cases h <;> rfl

theorem rxArrive_beyondReceive (s : State) : beyondReceive (rxArrive s) = beyondReceive s := by
  cases hd : s.rxDuring with
  | nil =>
    obtain ⟨held, left, hdraw, -⟩ := rxDraw_cases (checkNeed s - rxAvail s) s
    rw [rxArrive_draw hd, hdraw]
    rfl
  | cons batch more =>
    obtain ⟨held, count, happ, -⟩ := rxAppend_cases batch { s with rxDuring := more }
    rw [rxArrive_batch hd, happ]
    rfl

theorem ReceiveRun.beyondReceive_eq {s t : State} {r : Result} (h : ReceiveRun s t r) :
    beyondReceive t = beyondReceive s := by
  induction h with
  | last h => exact h.beyondReceive_eq
  | more h _ ih => exact ih.trans ((rxArrive_beyondReceive _).trans h.beyondReceive_eq)

theorem exec_receive_beyondReceive {i : Instr} {s t : State} (hi : isReceive i = true) (h : exec i s = .next t) :
    beyondReceive t = beyondReceive s := by
  obtain ⟨t', r, hrun, rfl⟩ := exec_receive_run hi h
  exact hrun.beyondReceive_eq

/-- Settles O29: the three are outside what a run of sub-steps may write. -/
theorem receiveLeavesChecksumAndTx : Obligations.ReceiveLeavesChecksumAndTx := by
  intro i s t hi h
  obtain ⟨hck, hmatch, -, -, -, -, -, -, -, htx, -⟩ :=
    (beyondReceive_eq_iff s t).mp (exec_receive_beyondReceive hi h)
  exact ⟨hck, hmatch, htx⟩

/-- Settles O27: the receive instructions by their frame, the others by what they write. -/
theorem blockNeverWritesHostRegisters : Obligations.BlockNeverWritesHostRegisters := by
  intro i s t h
  cases hi : isReceive i with
  | true =>
    obtain ⟨-, -, hop, ht, hs, hl, hc, hobuf, hpin, -, hparams, hscript⟩ :=
      (beyondReceive_eq_iff s t).mp (exec_receive_beyondReceive hi h)
    exact ⟨hop, ht, hs, hl, hc, hobuf, hpin, hparams, hscript⟩
  | false =>
    obtain ⟨k, b, w, r, hexec⟩ := exec_other hi s
    cases hexec.symm.trans h
    exact ⟨rfl, rfl, rfl, rfl, rfl, rfl, rfl, rfl, rfl⟩

/-! ### The pin and the receive instructions -/

/-- A sub-step's answer with its next state changed, as `mapNext` is an outcome's. -/
def mapAnswer (g : State → State) : Except Fault (State × Result) → Except Fault (State × Result) :=
  Except.map (Prod.map g id)

theorem mapAnswer_ok (g : State → State) (s : State) (r : Result) : mapAnswer g (.ok (s, r)) = .ok (g s, r) := rfl

theorem finish_mapAnswer_setListenOnly (b : Bool) (x : Except Fault (State × Result)) :
    finish (mapAnswer (setListenOnly b) x) = mapNext (setListenOnly b) (finish x) := by
  cases x <;> rfl

theorem hdrVerdict_setListenOnly (b : Bool) (b0 b1 b2 b3 b4 : Byte) (s : State) :
    hdrVerdict b0 b1 b2 b3 b4 (setListenOnly b s) =
      Prod.map (setListenOnly b) id (hdrVerdict b0 b1 b2 b3 b4 s) := by
  unfold hdrVerdict
  cases decodeHeader b0 b1 b2 b3 b4 <;> rfl

theorem msgVerdict_setListenOnly (b : Bool) (p : List Byte) (c f : Byte) (s : State) :
    msgVerdict p c f (setListenOnly b s) = Prod.map (setListenOnly b) id (msgVerdict p c f s) := by
  by_cases hc : c = cksum s.hdrSender s.hdrTarget p
  · by_cases hf : f = Config.footerMark
    · rw [msgVerdict_of_valid hc hf, msgVerdict_of_valid (s := setListenOnly b s) hc hf]
      rfl
    · rw [msgVerdict_of_footer_ne hc hf, msgVerdict_of_footer_ne (s := setListenOnly b s) hc hf]
      rfl
  · rw [msgVerdict_of_checksum_ne hc, msgVerdict_of_checksum_ne (s := setListenOnly b s) hc]
    rfl

theorem hdrStepOn_setListenOnly {unit : Option (List Byte)} (hu : ∀ u ∈ unit, u.length = 5) (b : Bool) (s : State) :
    hdrStepOn unit (setListenOnly b s) = mapAnswer (setListenOnly b) (hdrStepOn unit s) := by
  cases hg : hdrGate s with
  | some r => rw [hdrStepOn_wait hg, hdrStepOn_wait (s := setListenOnly b s) hg, mapAnswer_ok]
  | none =>
    obtain ⟨b0, b1, b2, b3, b4, hb⟩ := header_five hu hg
    rw [hdrStepOn_go hg hb, hdrStepOn_go (s := setListenOnly b s) hg hb]
    exact congrArg Except.ok (hdrVerdict_setListenOnly b b0 b1 b2 b3 b4 (rxAdvance 5 s))

theorem msgStepOn_setListenOnly {unit : Option (List Byte)} (hu : ∀ u ∈ unit, u.length = 2) (b : Bool) (s : State) :
    msgStepOn unit (setListenOnly b s) = mapAnswer (setListenOnly b) (msgStepOn unit s) := by
  cases hg : msgGate s with
  | some r => rw [msgStepOn_wait hg, msgStepOn_wait (s := setListenOnly b s) hg, mapAnswer_ok]
  | none =>
    have hp := ((msgGate_none_iff s).mp hg).1
    obtain ⟨p, c', f', rest, hr, hl⟩ := rx_message hg
    obtain ⟨c, f, hb⟩ := trailer_two hu c' f'
    rw [msgStepOn_go hp hr hl hb, msgStepOn_go (s := setListenOnly b s) hp hr hl hb]
    exact congrArg Except.ok (msgVerdict_setListenOnly b p c f (afterMessage p s))

theorem rxAppend_setListenOnly (b : Bool) (bs : List Byte) (s : State) :
    rxAppend bs (setListenOnly b s) = setListenOnly b (rxAppend bs s) := by
  induction bs generalizing s with
  | nil => rfl
  | cons v bs ih =>
    have hbyte : rxAppendByte v (setListenOnly b s) = setListenOnly b (rxAppendByte v s) := by
      have hfull : rxFull (setListenOnly b s) = rxFull s := rfl
      unfold rxAppendByte
      rw [hfull]
      split <;> rfl
    rw [rxAppend, hbyte, ih, rxAppend]

theorem rxDraw_setListenOnly (b : Bool) (n : Nat) (s : State) :
    rxDraw n (setListenOnly b s) = setListenOnly b (rxDraw n s) := by
  induction n generalizing s with
  | zero => rfl
  | succ n ih =>
    have hfull : rxFull (setListenOnly b s) = rxFull s := rfl
    cases hs : s.rxSupply with
    | nil => rw [rxDraw_none hs, rxDraw_none (s := setListenOnly b s) hs]
    | cons v vs =>
      simp only [rxDraw, setListenOnly_rxSupply, hs, hfull]
      split
      · rfl
      · exact ih { s with rx := s.rx ++ [v], rxSupply := vs ++ [v] }

theorem rxArrive_setListenOnly (b : Bool) (s : State) :
    rxArrive (setListenOnly b s) = setListenOnly b (rxArrive s) := by
  cases hd : s.rxDuring with
  | nil =>
    rw [rxArrive_draw hd, rxArrive_draw (s := setListenOnly b s) hd]
    exact rxDraw_setListenOnly b _ s
  | cons batch more =>
    rw [rxArrive_batch hd, rxArrive_batch (s := setListenOnly b s) hd]
    exact rxAppend_setListenOnly b batch { s with rxDuring := more }

theorem tickLoop_setListenOnly (b : Bool) (n : Nat) (s : State) :
    tickLoop n (setListenOnly b s) = mapAnswer (setListenOnly b) (tickLoop n s) := by
  induction n generalizing s with
  | zero => rfl
  | succ n ih =>
    obtain ⟨s1, r1, h1⟩ := hdrStep_answers s
    have h1' : hdrStep (setListenOnly b s) = .ok (setListenOnly b s1, r1) := by
      rw [hdrStep, hdrStepOn_setListenOnly (by simp), ← hdrStep, h1, mapAnswer_ok]
    obtain ⟨s2, r2, h2⟩ := msgStep_answers (rxArrive s1)
    have h2' : msgStep (setListenOnly b (rxArrive s1)) = .ok (setListenOnly b s2, r2) := by
      rw [msgStep, msgStepOn_setListenOnly (by simp), ← msgStep, h2, mapAnswer_ok]
    simp only [tickLoop, h1, h1', h2, h2', rxArrive_setListenOnly, ih]
    split
    · rfl
    · split <;> rfl

/-- Settles O28: each sub-step, each append and so the loop go alike at every level of the pin. -/
theorem receiveIgnoresListenOnly : Obligations.ReceiveIgnoresListenOnly := by
  intro i s b hi
  obtain ⟨unit, hu, hform⟩ | ⟨unit, hu, hform⟩ | rfl := exec_receive_forms hi
  · rw [hform, hform, hdrStepOn_setListenOnly hu, finish_mapAnswer_setListenOnly]
  · rw [hform, hform, msgStepOn_setListenOnly hu, finish_mapAnswer_setListenOnly]
  · show finish (tickLoop (tickLimit s) (setListenOnly b s)) = mapNext _ (finish (tickLoop (tickLimit s) s))
    rw [tickLoop_setListenOnly, finish_mapAnswer_setListenOnly]

end Sys2Proof.Machine
end

section
/-! The stream under the instructions (10_state.md R30, 20_memory.md R40 to R42): what they consume stands at the head
of what is unread and of what arrives meanwhile. -/

namespace Sys2Proof.Machine

/-- The first `k` unread bytes, those still to arrive among them, have been consumed and counted. -/
structure Consumed (k : Nat) (s t : State) : Prop where
  le : k ≤ (unread s).length
  unread_eq : unread t = (unread s).drop k
  rxPos_eq : t.rxPos = s.rxPos + k

theorem Consumed.trans {j k : Nat} {s u t : State} (h : Consumed j s u) (h' : Consumed k u t) :
    Consumed (j + k) s t where
  le := by
    have hk := h'.le
    rw [h.unread_eq, List.length_drop] at hk
    have hj := h.le
    omega
  unread_eq := by rw [h'.unread_eq, h.unread_eq, List.drop_drop]
  rxPos_eq := by rw [h'.rxPos_eq, h.rxPos_eq, Nat.add_assoc]

/-- Bytes there are to consume stand in `rx`; what arrives later stays behind them. -/
theorem Consumed.of_rx {k : Nat} {s t : State} (hk : k ≤ s.rx.length) (hrx : t.rx = s.rx.drop k)
    (hpos : t.rxPos = s.rxPos + k) (hd : t.rxDuring = s.rxDuring) : Consumed k s t where
  le := by
    rw [unread, List.length_append]
    omega
  unread_eq := by rw [unread, unread, hrx, hd, List.drop_append_of_le_length hk]
  rxPos_eq := hpos

namespace SubStep

variable {s t : State} {r : Result}

/-- A sub-step touches neither the batches to come nor the supply. -/
theorem rxDuring_eq (h : SubStep s t r) : t.rxDuring = s.rxDuring := by
  cases h <;> rfl

theorem rxSupply_eq (h : SubStep s t r) : t.rxSupply = s.rxSupply := by
  cases h <;> rfl

theorem params_eq (h : SubStep s t r) : t.params = s.params := by
  cases h <;> rfl

/-- A sub-step consumes nothing, a header's five bytes, or a message. -/
theorem consumed (h : SubStep s t r) : ∃ k, Consumed k s t := by
  cases h with
  | waits hr => exact ⟨0, .of_rx (by omega) rfl rfl rfl⟩
  | accepts hlen ht hsd => exact ⟨5, .of_rx hlen rfl rfl rfl⟩
  | rejectsHeader hlen he => exact ⟨5, .of_rx hlen rfl rfl rfl⟩
  | @delivers p hlen => exact ⟨p.length + 2, .of_rx hlen rfl rfl rfl⟩
  | @rejectsMessage p e hlen he => exact ⟨p.length + 2, .of_rx hlen rfl rfl rfl⟩

end SubStep

/-! ### Arrivals without an endless supply -/

theorem rxArrive_rxSupply_nil {s : State} (hs : s.rxSupply = []) : (rxArrive s).rxSupply = [] := by
  cases hd : s.rxDuring with
  | nil => rw [rxArrive_none hd hs, hs]
  | cons batch more => rw [rxArrive_batch hd, rxAppend_rxSupply, hs]

theorem rxArrive_rxDuring_nil {s : State} (hs : s.rxSupply = []) (hd : s.rxDuring = []) :
    (rxArrive s).rxDuring = [] := by
  rw [rxArrive_none hd hs, hd]

/-- On an unbounded RX_SOURCE an arrival moves bytes from those still to come to those unread, in order. -/
theorem rxArrive_consumed {s : State} (hs : s.rxSupply = []) (hd : s.rxDuring = [] ∨ s.params.rxCap = none) :
    Consumed 0 s (rxArrive s) where
  le := Nat.zero_le _
  unread_eq := by
    cases hdur : s.rxDuring with
    | nil => rw [rxArrive_none hdur hs, List.drop_zero]
    | cons batch more =>
      have hcap : s.params.rxCap = none := hd.resolve_left (by simp [hdur])
      rw [rxArrive_batch hdur, rxAppend_unbounded (by exact hcap)]
      simp [unread, hdur]
  rxPos_eq := rxArrive_rxPos s

/-- A run consumes from the head of the stream; with no batch to come there is none to come at its end. -/
theorem ReceiveRun.consumed {s t : State} {r : Result} (h : ReceiveRun s t r) (hs : s.rxSupply = [])
    (hd : s.rxDuring = [] ∨ s.params.rxCap = none) :
    (∃ k, Consumed k s t) ∧ (s.rxDuring = [] → t.rxDuring = []) := by
  induction h with
  | last h => exact ⟨h.consumed, fun hdur => h.rxDuring_eq.trans hdur⟩
  | @more s s1 t r h hrun ih =>
    have hs1 : s1.rxSupply = [] := h.rxSupply_eq.trans hs
    have hd1 : s1.rxDuring = [] ∨ s1.params.rxCap = none := by rwa [h.rxDuring_eq, h.params_eq]
    have hd2 : (rxArrive s1).rxDuring = [] ∨ (rxArrive s1).params.rxCap = none :=
      hd1.imp (rxArrive_rxDuring_nil hs1) (by rw [rxArrive_params]; exact id)
    obtain ⟨j, hj⟩ := h.consumed
    obtain ⟨⟨k, hk⟩, hdur⟩ := ih (rxArrive_rxSupply_nil hs1) hd2
    exact ⟨⟨_, (hj.trans (rxArrive_consumed hs1 hd1)).trans hk⟩,
      fun hnil => hdur (rxArrive_rxDuring_nil hs1 (h.rxDuring_eq.trans hnil))⟩

/-! ### A tick ends -/

/-- The bytes a tick can consume: those unread and those still to come. -/
theorem unread_length (s : State) : (unread s).length = s.rx.length + s.rxDuring.flatten.length :=
  List.length_append

theorem rxArrive_unread_length {s : State} (hs : s.rxSupply = []) :
    (unread (rxArrive s)).length ≤ (unread s).length := by
  rw [unread_length, unread_length]
  exact rxArrive_total hs

theorem SubStep.unread_length_le {s t : State} {r : Result} (h : SubStep s t r) :
    (unread t).length ≤ (unread s).length := by
  obtain ⟨k, hk⟩ := h.consumed
  rw [hk.unread_eq, List.length_drop]
  omega

/-- A delivery consumes at least the trailer's two bytes. -/
theorem msgStep_ok_unread_length {s t : State} (h : msgStep s = .ok (t, .ok)) :
    (unread t).length + 2 ≤ (unread s).length := by
  obtain ⟨hg, -⟩ | ⟨p, c, f, rest, -, hr, -, ⟨-, -, -, rfl⟩ | ⟨-, habs, -⟩ | ⟨-, -, habs, -⟩⟩ := msgStep_cases h
  · obtain ⟨habs, -⟩ | ⟨habs, -⟩ := msgGate_some hg <;> cases habs
  · simp [unread_length, afterMessage, hr]
    omega
  · cases habs
  · cases habs

/-- R112: without an endless supply, more iterations than half the bytes there are and to come end a tick. -/
theorem tickLoop_answers {n : Nat} {s : State} (hs : s.rxSupply = []) (hn : (unread s).length / 2 < n) :
    ∃ t r, tickLoop n s = .ok (t, r) := by
  induction n generalizing s with
  | zero => omega
  | succ n ih =>
    obtain ⟨s1, r1, h1⟩ := hdrStep_answers s
    obtain ⟨s2, r2, h2⟩ := msgStep_answers (rxArrive s1)
    by_cases hr1 : r1 = .ok
    · by_cases hr2 : r2 = .ok
      · subst hr1 hr2
        have hsub1 := hdrStep_subStep h1
        have hs1 : s1.rxSupply = [] := hsub1.rxSupply_eq.trans hs
        have hs2 : s2.rxSupply = [] := (msgStep_subStep h2).rxSupply_eq.trans (rxArrive_rxSupply_nil hs1)
        have hlen1 := hsub1.unread_length_le
        have hlen2 := rxArrive_unread_length hs1
        have hlen3 := msgStep_ok_unread_length h2
        have hlen4 := rxArrive_unread_length hs2
        obtain ⟨t, r, hloop⟩ := ih (rxArrive_rxSupply_nil hs2) (by omega)
        exact ⟨t, r, by simpa [tickLoop, h1, h2] using hloop⟩
      · exact ⟨s2, r2, by simp [tickLoop, h1, h2, hr1, hr2]⟩
    · exact ⟨s1, r1, by simp [tickLoop, h1, hr1]⟩

theorem exec_decodeTick_answers {s : State} (hs : s.rxSupply = []) : ∃ t, exec .decodeTick s = .next t := by
  have hn : (unread s).length / 2 < tickLimit s := by
    rw [tickLimit, tickBound, unread_length]
    omega
  obtain ⟨t, r, hloop⟩ := tickLoop_answers hs hn
  refine ⟨setResult r t, ?_⟩
  show finish (tickLoop (tickLimit s) s) = _
  rw [hloop, finish_ok]

/-- Settles O30: a sub-step takes its bytes from the head of the stream, an arrival only moves the border between the
bytes there and those to come, and the other instructions take none. -/
theorem consumesPrefixOfStream : Obligations.ConsumesPrefixOfStream := by
  intro i s hs hd
  cases hi : isReceive i with
  | false =>
    obtain ⟨k, b, w, r, hexec⟩ := exec_other hi s
    exact ⟨_, 0, hexec, Nat.zero_le _, rfl, rfl, fun _ => rfl, fun _ => rfl⟩
  | true =>
    by_cases htick : i = .decodeTick
    · subst htick
      obtain ⟨t, hexec⟩ := exec_decodeTick_answers hs
      obtain ⟨t', r, hrun, rfl⟩ := exec_decodeTick_run hexec
      obtain ⟨⟨k, hk⟩, hdur⟩ := hrun.consumed hs hd
      refine ⟨_, k, hexec, hk.le, hk.unread_eq, hk.rxPos_eq, nofun, fun hcase => ?_⟩
      have hnil : s.rxDuring = [] := hcase.resolve_left (fun hne => hne rfl)
      exact (hdur hnil).trans hnil.symm
    · obtain ⟨t, r, hsub, hexec⟩ := exec_subStep hi htick s
      obtain ⟨k, hk⟩ := hsub.consumed
      exact ⟨_, k, hexec, hk.le, hk.unread_eq, hk.rxPos_eq, nofun, fun _ => hsub.rxDuring_eq⟩

end Sys2Proof.Machine
end

section
/-! Results, events and `PBUF` (10_state.md R23, R24, R31, 60_exceptions.md R133). -/

namespace Sys2Proof.Machine

/-! ### The events of a run, and its writes to `PBUF` -/

/-- The new events are the deliveries `ds` and then the result's Diag, if it has one; and if no message was rejected,
`PBUF` is as before wherever no payload of `ds` reached. -/
structure Reported (ds : List Event) (s t : State) (r : Result) : Prop where
  deliveries : ds.all isDelivery = true
  events_eq : t.events = s.events ++ ds ++ diagOf r
  pbuf_eq : r ≠ .errChecksum → r ≠ .errFooter → ∀ j, (∀ e ∈ ds, payloadExtent e ≤ j) →
    bufByte .pbuf t.pbuf j = bufByte .pbuf s.pbuf j

theorem SubStep.reported {s t : State} {r : Result} (h : SubStep s t r) : ∃ ds, Reported ds s t r := by
  cases h with
  | waits hr => exact ⟨[], rfl, by simp [diagOf_not_error hr], fun _ _ _ _ => rfl⟩
  | accepts hlen ht hsd =>
    exact ⟨[], rfl, by simp [diagOf_not_error (r := .ok) rfl], fun _ _ _ _ => rfl⟩
  | rejectsHeader hlen he => exact ⟨[], rfl, by simp [diagOf_error he], fun _ _ _ _ => rfl⟩
  | @delivers p hlen =>
    refine ⟨[.deliver s.hdrTarget s.hdrSender s.hdrLength p], rfl, ?_, fun _ _ j hj => ?_⟩
    · simp [diagOf_not_error (r := .ok) rfl, afterMessage]
    · have hp : p.length ≤ j := hj _ (List.mem_singleton_self _)
      exact bufByte_bufFill_outside .pbuf s.pbuf 0 p j (by omega)
  | @rejectsMessage p _ hlen he =>
    have herr : r.isError = true := by obtain rfl | rfl := he <;> rfl
    refine ⟨[], rfl, ?_, fun hc hf => ?_⟩
    · simp [diagOf_error herr, rejectMessage, afterMessage]
    · exact absurd he (by simp [hc, hf])

theorem ReceiveRun.reported {s t : State} {r : Result} (h : ReceiveRun s t r) : ∃ ds, Reported ds s t r := by
  induction h with
  | last h => exact h.reported
  | @more s s1 t r h hrun ih =>
    obtain ⟨ds, hds⟩ := h.reported
    obtain ⟨es, hes⟩ := ih
    refine ⟨ds ++ es, ?_, ?_, fun hc hf j hj => ?_⟩
    · rw [List.all_append, hds.deliveries, hes.deliveries]
      rfl
    · rw [hes.events_eq, rxArrive_events, hds.events_eq, diagOf_not_error rfl, List.append_nil,
        List.append_assoc s.events]
    · rw [hes.pbuf_eq hc hf j fun e he => hj e (List.mem_append_right ds he), rxArrive_pbuf,
        hds.pbuf_eq nofun nofun j fun e he => hj e (List.mem_append_left es he)]

/-- Settles O25: a run reports as its sub-steps do, and the other instructions deliver nothing. -/
theorem diagExactlyWhenError : Obligations.DiagExactlyWhenError := by
  intro i s t h
  cases hi : isReceive i with
  | true =>
    obtain ⟨t', r, hrun, rfl⟩ := exec_receive_run hi h
    obtain ⟨ds, hds⟩ := hrun.reported
    exact ⟨r, ds, rfl, hds.deliveries, hds.events_eq⟩
  | false =>
    obtain ⟨k, b, w, r, hexec⟩ := exec_other hi s
    cases hexec.symm.trans h
    exact ⟨r, [], rfl, rfl, by rw [List.append_nil]; rfl⟩

/-- Settles O45: the deliveries of a tick, its Diag after them, bound the indices of `PBUF` it writes. -/
theorem tickPbufFrame : Obligations.TickPbufFrame := by
  intro s t h
  obtain ⟨t', r, hrun, rfl⟩ := exec_decodeTick_run h
  obtain ⟨ds, hds⟩ := hrun.reported
  refine ⟨ds ++ diagOf r, hds.events_eq.trans (List.append_assoc ..), fun hc hf j hj => ?_⟩
  exact hds.pbuf_eq (fun hr => hc (congrArg resultCode hr)) (fun hr => hf (congrArg resultCode hr)) j
    fun e he => hj e (List.mem_append_left _ he)

/-! ### A failed message -/

theorem bufByte_bufForget (name : Config.BufferName) (b : Buffer) (i : Nat) :
    bufByte name (bufForget b) i = Config.unspecifiedByte name (b.epoch + 1) i := rfl

/-- A message whose checksum byte or whose footer is wrong is rejected. -/
theorem msgVerdict_rejects {p : List Byte} {c f : Byte} {s : State}
    (h : c ≠ cksum s.hdrSender s.hdrTarget p ∨ f ≠ Config.footerMark) :
    ∃ e, msgVerdict p c f s = rejectMessage e s := by
  by_cases hc : c = cksum s.hdrSender s.hdrTarget p
  · exact ⟨_, msgVerdict_of_footer_ne hc (h.resolve_left (not_not.mpr hc))⟩
  · exact ⟨_, msgVerdict_of_checksum_ne hc⟩

/-- Settles O36: a rejected message forgets `PBUF`, whose epoch the payload's bytes had not changed. -/
theorem failedMessageLeavesPbufFree : Obligations.FailedMessageLeavesPbufFree := by
  intro s p rest c f hp hr hl hbad
  obtain ⟨e, he⟩ := msgVerdict_rejects (s := afterMessage p s) hbad
  have hmsg : msgStep s = .ok (rejectMessage e (afterMessage p s)) := by
    rw [msgStep, msgStepOn_go hp hr hl rfl, he]
  refine ⟨setResult e (rejectMessage e (afterMessage p s)).1, congrArg finish hmsg, fun i => ?_⟩
  exact (bufByte_bufForget .pbuf (bufFill s.pbuf 0 p) i).trans (by rw [bufFill_epoch])

/-! ### A pending header's addresses (R31) -/

theorem SubStep.pendingAddressesLegal {s t : State} {r : Result} (h : SubStep s t r)
    (hs : pendingAddressesLegal s = true) : pendingAddressesLegal t = true := by
  cases h with
  | waits hr => exact hs
  | accepts hlen ht hsd => exact (pendingAddressesLegal_iff _).mpr fun _ => ⟨ht, hsd⟩
  | rejectsHeader hlen he => exact hs
  | delivers hlen => rfl
  | rejectsMessage hlen he => rfl

theorem ReceiveRun.pendingAddressesLegal {s t : State} {r : Result} (h : ReceiveRun s t r)
    (hs : pendingAddressesLegal s = true) : pendingAddressesLegal t = true := by
  induction h with
  | last h => exact h.pendingAddressesLegal hs
  | more h _ ih => exact ih (by simpa [Machine.pendingAddressesLegal] using h.pendingAddressesLegal hs)

theorem exec_pendingAddressesLegal {i : Instr} {s t : State} (h : exec i s = .next t)
    (hs : pendingAddressesLegal s = true) : pendingAddressesLegal t = true := by
  cases hi : isReceive i with
  | true =>
    obtain ⟨t', r, hrun, rfl⟩ := exec_receive_run hi h
    exact hrun.pendingAddressesLegal hs
  | false =>
    obtain ⟨k, b, w, r, hexec⟩ := exec_other hi s
    cases hexec.symm.trans h
    exact hs

theorem perform_pendingAddressesLegal {a : Action} {s t : State} (h : perform a s = .next t)
    (hs : pendingAddressesLegal s = true) : pendingAddressesLegal t = true := by
  obtain ⟨bytes, -, rfl⟩ | ⟨_, _, _, _, -, rfl⟩ | ⟨start, bytes, -, -, rfl⟩ | ⟨op, during, t', -, hexec, rfl⟩ |
    ⟨bytes, -, rfl⟩ | ⟨-, rfl⟩ | ⟨level, -, rfl⟩ := perform_cases h
  · -- feed
    simpa [pendingAddressesLegal] using hs
  · -- args
    exact hs
  · -- writeObuf
    exact hs
  · -- command
    have ht' : pendingAddressesLegal t' = true := exec_pendingAddressesLegal hexec hs
    simpa [pendingAddressesLegal] using ht'
  · -- supply
    exact hs
  · -- reset
    rfl
  · -- listenOnly
    exact hs

/-- Settles O51: only a header with legal addresses is ever loaded, and no other move writes the header registers but
RESET, which clears them. -/
theorem pendingAddressesStayLegal : Obligations.PendingAddressesStayLegal := by
  refine ⟨rfl, fun s t hs hstep => ?_⟩
  obtain ⟨-, hidle⟩ | ⟨a, rest, -, hmove⟩ := runScript_cases hstep
  · cases hidle
    exact hs
  · exact perform_pendingAddressesLegal (s := setScript rest s) hmove.symm hs

/-- Settles O53: nothing is pending, listed, unread or told after reset. -/
theorem invariantAtReset : Obligations.InvariantAtReset :=
  ⟨rfl, rfl, rfl, rfl, reset_buffers_wf, rfl⟩

end Sys2Proof.Machine
end

section
/-! The moves of the script (00_scope.md R8, 30_encoding.md R72): the environment's, the HOST's write to `OBUF`, and a
command as the instruction its code, or the unit it meets on the stream, decodes to. -/

namespace Sys2Proof.Machine

/-- A step makes the next move, with the script moved on. -/
theorem step_eq_perform {s : State} {a : Action} {rest : List Action} (h : s.script = a :: rest) :
    step s = perform a (setScript rest s) := by
  simp [step, runScript, h]

/-- Settles O9: each move is its one update of the state. -/
theorem environmentMoves : Obligations.EnvironmentMoves := by
  refine fun s rest => ⟨fun bytes h hcap => ?feed, fun t sd l c h => ?args, fun level h => ?pin, fun bytes h => ?supply⟩
  case feed =>
    have hcap' : (setScript rest s).params.rxCap = none := hcap
    rw [step_eq_perform h, perform, rxAppend_unbounded hcap']
    rfl
  case args => exact step_eq_perform h
  case pin => exact step_eq_perform h
  case supply => exact step_eq_perform h

/-- Settles O13: a write in range fills the buffer, and what a filled buffer reads as is known inside and outside. -/
theorem hostWritesObuf : Obligations.HostWritesObuf := by
  intro s rest start bytes h hrange
  refine ⟨bufFill s.obuf start bytes, ?_, bufByte_bufFill_inside .obuf s.obuf start bytes,
    bufByte_bufFill_outside .obuf s.obuf start bytes⟩
  have hwrite : bufWriteFrom .obuf (setScript rest s).obuf start bytes = .ok (bufFill s.obuf start bytes) :=
    bufWriteFrom_ok .obuf s.obuf start bytes hrange
  rw [step_eq_perform h, perform, hostWriteObuf, hwrite]
  rfl

/-! ### A unit on the stream as an instruction (log 10) -/

theorem decode_header_ok {bs more : List Byte} {i : Instr} (h : decode .header bs = .ok (i, more)) :
    ∃ t sd l, bs = headerBytes t sd l ++ more ∧ i = .frameHeader t sd l := by
  match bs, h with
  | b0 :: b1 :: b2 :: b3 :: b4 :: rest, h =>
    simp only [decode] at h
    cases hd : decodeHeader b0 b1 b2 b3 b4 with
    | error e => rw [hd] at h; cases h
    | ok j =>
      rw [hd] at h
      obtain ⟨rfl, rfl⟩ := Prod.mk.inj (Except.ok.inj h)
      obtain ⟨rfl, rfl, -, -, rfl⟩ := (decodeHeader_ok_iff _ _ _ _ _ _).mp hd
      exact ⟨b1, b2, b4, rfl, rfl⟩

theorem decode_trailer_ok {bs more : List Byte} {i : Instr} (h : decode .trailer bs = .ok (i, more)) :
    ∃ c, bs = trailerBytes c ++ more ∧ i = .frameTrailer c := by
  match bs, h with
  | c :: f :: rest, h =>
    simp only [decode] at h
    cases hd : decodeTrailer c f with
    | error e => rw [hd] at h; cases h
    | ok j =>
      rw [hd] at h
      obtain ⟨rfl, rfl⟩ := Prod.mk.inj (Except.ok.inj h)
      obtain ⟨rfl, rfl⟩ := (decodeTrailer_ok_iff _ _ _).mp hd
      exact ⟨c, rfl, rfl⟩

/-- HDR_STEP with the unit that heads the stream is HDR_STEP. -/
theorem hdrStepOn_head {s : State} {t sd l : Byte} {more : List Byte} (h : s.rx = headerBytes t sd l ++ more) :
    hdrStepOn (some (headerBytes t sd l)) s = hdrStep s := by
  cases hg : hdrGate s with
  | some r => rw [hdrStep, hdrStepOn_wait hg, hdrStepOn_wait hg]
  | none =>
    have hhead : (none : Option (List Byte)).getD (s.rx.take 5) =
        [Config.startMark, t, sd, Config.alignMark, l] := by simp [h, headerBytes]
    rw [hdrStep, hdrStepOn_go hg hhead, hdrStepOn_go hg rfl]

/-- MSG_STEP with the unit that follows the payload is MSG_STEP. -/
theorem msgStepOn_after_payload {s : State} {c : Byte} {more : List Byte}
    (h : s.rx.drop s.hdrLength.toNat = trailerBytes c ++ more) :
    msgStepOn (some (trailerBytes c)) s = msgStep s := by
  cases hg : msgGate s with
  | some r => rw [msgStep, msgStepOn_wait hg, msgStepOn_wait hg]
  | none =>
    have hp := ((msgGate_none_iff s).mp hg).1
    obtain ⟨p, c', f', rest, hr, hl⟩ := rx_message hg
    have htail : c' :: f' :: rest = c :: Config.footerMark :: more := by
      rw [hr, ← hl, List.drop_left] at h
      exact h
    obtain ⟨rfl, rfl, -⟩ : c' = c ∧ f' = Config.footerMark ∧ rest = more := by simpa using htail
    rw [msgStep, msgStepOn_go hp hr hl rfl, msgStepOn_go hp hr hl rfl]

/-- Settles O6: a step runs the command its code decodes to, and the two commands that read a unit do what the unit,
read as an instruction, does. -/
theorem stepRunsDecodedInstruction : Obligations.StepRunsDecodedInstruction := by
  intro s op during rest h
  have hstep : step s = settle (exec (decodeCommand op) (issue op during (setScript rest s))) := step_eq_perform h
  refine ⟨fun i hdec => ?command, fun i more hop _ hdec => ?header, fun i more hop _ hdec => ?trailer⟩
  case command =>
    obtain ⟨rfl, -⟩ := Prod.mk.inj (Except.ok.inj hdec)
    exact hstep
  case header =>
    subst hop
    obtain ⟨t, sd, l, hrx, rfl⟩ := decode_header_ok hdec
    rw [hstep]
    exact congrArg (fun x => settle (finish x))
      (hdrStepOn_head (s := issue 0x03#8 during (setScript rest s)) hrx).symm
  case trailer =>
    subst hop
    obtain ⟨c, hrx, rfl⟩ := decode_trailer_ok hdec
    rw [hstep]
    exact congrArg (fun x => settle (finish x))
      (msgStepOn_after_payload (s := issue 0x04#8 during (setScript rest s)) hrx).symm

end Sys2Proof.Machine
end

section
/-! What RX_SOURCE appends during a command (20_memory.md R42, R52), and a frame completed by it. -/

namespace Sys2Proof.Machine

/-- On an unbounded RX_SOURCE the next batch goes behind the unread bytes. -/
theorem rxArrive_unbounded {s : State} {batch : List Byte} {more : List (List Byte)} (hd : s.rxDuring = batch :: more)
    (hcap : s.params.rxCap = none) : rxArrive s = { s with rx := s.rx ++ batch, rxDuring := more } := by
  rw [rxArrive_batch hd]
  exact rxAppend_unbounded (by exact hcap)

/-- Settles O10: an arrival is an append of the next batch, a settling one of all the batches left, and with no batch to
come a draw from the supply. -/
theorem arrivalsLand : Obligations.ArrivalsLand := by
  intro s
  refine ⟨rfl, fun hcap => ?settled, fun batch more hd => ⟨?fed, fun hcap => ?appended⟩, rxArrive_none,
    fun n hd hs hn hroom => ?drawn⟩
  case settled => exact congrArg Host.Outcome.next (rxAppend_unbounded (by exact hcap))
  case fed => exact congrArg Host.Outcome.next (rxArrive_batch hd)
  case appended => exact rxArrive_unbounded hd hcap
  case drawn =>
    have hneed : checkNeed s - rxAvail s = n := hn.symm
    rw [rxArrive_draw hd, hneed]
    exact rxDraw_room hs hroom

/-! ### Sub-steps of a given outcome -/

theorem hdrStep_short {s : State} (hp : s.hdrPending = false) (hlen : s.rx.length < 5) :
    hdrStep s = .ok (s, .needMore) :=
  hdrStepOn_wait (by simp [hdrGate, rxAvail, Config.hdrLen, hp, hlen])

theorem hdrStep_accepts {s : State} {t sd l : Byte} {more : List Byte} (hp : s.hdrPending = false)
    (hr : s.rx = headerBytes t sd l ++ more) (ht : legalAddr t = true) (hsd : legalAddr sd = true) :
    hdrStep s = .ok (loadHeader t sd l (rxAdvance 5 s), .ok) := by
  have hg : hdrGate s = none := (hdrGate_none_iff s).mpr ⟨hp, by simp [hr, headerBytes]⟩
  have hhead : (none : Option (List Byte)).getD (s.rx.take 5) = headerBytes t sd l := by simp [hr, headerBytes]
  rw [hdrStep, hdrStepOn_go hg hhead, hdrVerdict, (decodeHeader_ok_iff ..).mpr ⟨rfl, rfl, ht, hsd, rfl⟩]

theorem msgStep_delivers {s : State} {p more : List Byte} (hp : s.hdrPending = true)
    (hr : s.rx = p ++ trailerBytes (cksum s.hdrSender s.hdrTarget p) ++ more) (hl : p.length = s.hdrLength.toNat) :
    msgStep s = .ok (emit (.deliver s.hdrTarget s.hdrSender s.hdrLength p) (afterMessage p s), .ok) := by
  rw [List.append_assoc] at hr
  rw [msgStep, msgStepOn_go hp hr hl rfl]
  exact congrArg Except.ok (msgVerdict_of_valid rfl rfl)

/-- One iteration of the loop, by the results of its two sub-steps (R111). -/
theorem tickLoop_succ {s s1 s2 : State} {r1 r2 : Result} (n : Nat) (h1 : hdrStep s = .ok (s1, r1))
    (h2 : msgStep (rxArrive s1) = .ok (s2, r2)) :
    tickLoop (n + 1) s =
      if r1 ≠ .ok then .ok (s1, r1) else if r2 ≠ .ok then .ok (s2, r2) else tickLoop n (rxArrive s2) := by
  simp only [tickLoop, h1, h2]

theorem tickLoop_succ_short {s : State} (n : Nat) (hp : s.hdrPending = false) (hlen : s.rx.length < 5) :
    tickLoop (n + 1) s = .ok (s, .needMore) := by
  obtain ⟨s2, r2, h2⟩ := msgStep_answers (rxArrive s)
  rw [tickLoop_succ n (hdrStep_short hp hlen) h2, if_pos nofun]

/-! ### A frame completed during a tick -/

/-- Two iterations suffice where the header is accepted, its message then is there, and no header follows it. -/
theorem tickLoop_delivers_once {s s1 s2 : State} {p more : List Byte} (n : Nat) (hhdr : hdrStep s = .ok (s1, .ok))
    (harr : rxArrive s1 = s2) (hp : s2.hdrPending = true)
    (hr : s2.rx = p ++ trailerBytes (cksum s2.hdrSender s2.hdrTarget p) ++ more) (hl : p.length = s2.hdrLength.toNat)
    (hmore : more.length < 5) (hd : s2.rxDuring = []) (hs : s2.rxSupply = []) :
    tickLoop (n + 2) s =
      .ok (emit (.deliver s2.hdrTarget s2.hdrSender s2.hdrLength p) (afterMessage p s2), .needMore) := by
  have hmsg := msgStep_delivers hp hr hl
  rw [← harr] at hmsg
  rw [tickLoop_succ (n + 1) hhdr hmsg, if_neg (by simp), if_neg (by simp), harr,
    rxArrive_none (by exact hd) (by exact hs)]
  exact tickLoop_succ_short n rfl (by simpa [afterMessage, hr, trailerBytes] using hmore)

/-- The tick of ArrivalsDuringTick, as the instruction alone. -/
theorem exec_decodeTick_completes_frame {s : State} {t sd l : Byte} {p more : List Byte} (ht : legalAddr t = true)
    (hsd : legalAddr sd = true) (hl : p.length = l.toNat) (hmore : more.length < 5) (hp : s.hdrPending = false)
    (hcap : s.params.rxCap = none) (hs : s.rxSupply = []) (hrx : s.rx = headerBytes t sd l)
    (hd : s.rxDuring = [p ++ trailerBytes (cksum sd t p) ++ more]) :
    ∃ u, exec .decodeTick s = .next u ∧ u.events = s.events ++ [.deliver t sd l p] ∧ u.rx = more ∧
      u.rxPos = s.rxPos + (l.toNat + 7) ∧ u.lastResult = resultCode .needMore ∧ u.hdrPending = false ∧
      u.rxDuring = [] := by
  obtain ⟨n, hn⟩ : ∃ n, tickLimit s = n + 2 := by
    refine ⟨tickLimit s - 2, ?_⟩
    simp [tickLimit, tickBound, hrx, headerBytes]
    omega
  have hhdr := hdrStep_accepts (more := []) hp (by simpa using hrx) ht hsd
  have harr := rxArrive_unbounded (s := loadHeader t sd l (rxAdvance 5 s)) hd hcap
  have hloop := tickLoop_delivers_once (p := p) (more := more) n hhdr harr rfl
    (by simp [hrx, headerBytes]) hl hmore rfl hs
  refine ⟨_, congrArg finish ((congrArg (tickLoop · s) hn).trans hloop), rfl, ?_, ?_, rfl, rfl, rfl⟩
  · simp [afterMessage, hrx, headerBytes, trailerBytes]
  · simp [afterMessage, hl]
    omega

/-- Settles O11: at the end of that tick no batch is left to land. -/
theorem arrivalsDuringTick : Obligations.ArrivalsDuringTick := by
  intro s rest t sd l p more ht hsd hl hmore hp hcap hs hrx hscript
  obtain ⟨u, hexec, hev, hrest, hpos, hres, hpend, hdur⟩ := exec_decodeTick_completes_frame
    (s := issue 0x05#8 [p ++ trailerBytes (cksum sd t p) ++ more] (setScript rest s))
    ((legalAddr_iff t).mpr ht) ((legalAddr_iff sd).mpr hsd) hl hmore hp hcap hs hrx rfl
  have hstep : step s = .next (rxSettle u) := (step_eq_perform hscript).trans (congrArg settle hexec)
  rw [rxSettle_none hdur] at hstep
  exact ⟨u, hstep, hev, hrest, hpos, hres, hpend, hdur⟩

end Sys2Proof.Machine
end

section
/-! Where the machine stops (20_memory.md R44, 60_exceptions.md R138, 70_reset_and_hazards.md R164), and what never
writes TX (20_memory.md R43). -/

namespace Sys2Proof.Machine

/-! ### A write past the end of a buffer (R44) -/

/-- The first index that does not exist is the first one written, or else 255. -/
theorem bufWriteFrom_past {name : Config.BufferName} {b : Buffer} {i : Nat} {vs : List Byte} (hne : vs ≠ [])
    (hpast : 255 < i + vs.length) : bufWriteFrom name b i vs = .error (.bufferRange name (max i 255)) := by
  induction vs generalizing b i with
  | nil => exact absurd rfl hne
  | cons v vs ih =>
    rw [List.length_cons] at hpast
    by_cases hi : i < 255
    · have hvs : vs ≠ [] := by
        rintro rfl
        simp at hpast
        omega
      have hwrite : bufWrite name b i v = .ok { b with cells := Memory.insert b.cells i v } := if_pos hi
      have hmax : max (i + 1) 255 = max i 255 := by omega
      rw [bufWriteFrom, hwrite, ← hmax]
      exact ih hvs (by omega)
    · have hwrite : bufWrite name b i v = .error (.bufferRange name i) := if_neg hi
      have hmax : max i 255 = i := by omega
      rw [bufWriteFrom, hwrite, hmax]

/-- Settles O14: the HOST's write stops where the buffer's does. -/
theorem hostWritePastObufFaults : Obligations.HostWritePastObufFaults := by
  intro s rest start bytes h hne hpast
  have hwrite : bufWriteFrom .obuf (setScript rest s).obuf start bytes = .error (.bufferRange .obuf (max start 255)) :=
    bufWriteFrom_past hne hpast
  rw [step_eq_perform h, perform, hostWriteObuf, hwrite]

/-! ### TX (R43) -/

/-- Settles O21: the receive instructions by their frame; the others write a checksum result or none. -/
theorem onlyEncodeFrameTransmits : Obligations.OnlyEncodeFrameTransmits := by
  intro i s t hi h
  cases hrec : isReceive i with
  | true =>
    obtain ⟨-, -, htx⟩ := receiveLeavesChecksumAndTx i s t hrec h
    exact htx
  | false =>
    cases i with
    | cksumGen =>
      rw [exec, execCksumGen, withChecksum_ok] at h
      cases h
      rfl
    | cksumCheck =>
      rw [exec, execCksumCheck, withChecksum_ok] at h
      cases h
      rfl
    | reservedCmd op =>
      cases h
      rfl
    | encodeFrame => exact absurd rfl hi
    | tryReadHeader => cases hrec
    | tryReadMessage => cases hrec
    | decodeTick => cases hrec
    | frameHeader t sd l => cases hrec
    | frameTrailer c => cases hrec

/-! ### The stops of a command (R138, R164) -/

theorem exec_answers {i : Instr} (hi : i ≠ .decodeTick) (s : State) : ∃ t, exec i s = .next t := by
  cases hrec : isReceive i with
  | true =>
    obtain ⟨t, r, -, hexec⟩ := exec_subStep hrec hi s
    exact ⟨_, hexec⟩
  | false =>
    obtain ⟨k, b, w, r, hexec⟩ := exec_other hrec s
    exact ⟨_, hexec⟩

/-- The loop's sub-steps all answer, so it stops only for want of iterations. -/
theorem tickLoop_error {n : Nat} {s : State} {f : Fault} (h : tickLoop n s = .error f) : f = .tickUnfinished := by
  induction n generalizing s with
  | zero => exact (Except.error.inj h).symm
  | succ n ih =>
    obtain ⟨s1, r1, h1⟩ := hdrStep_answers s
    obtain ⟨s2, r2, h2⟩ := msgStep_answers (rxArrive s1)
    rw [tickLoop_succ n h1 h2] at h
    split_ifs at h
    exact ih h

theorem exec_decodeTick_next_or_unfinished (s : State) :
    (∃ t, exec .decodeTick s = .next t) ∨ exec .decodeTick s = .fault .tickUnfinished := by
  cases hloop : tickLoop (tickLimit s) s with
  | ok x => exact .inl ⟨_, congrArg finish hloop⟩
  | error f =>
    cases tickLoop_error hloop
    exact .inr (congrArg finish hloop)

theorem decodeCommand_eq_decodeTick {op : Byte} (h : decodeCommand op = .decodeTick) : op = 0x05#8 := by
  unfold decodeCommand at h
  split_ifs at h
  assumption

/-- A command goes on, or it is a DECODE_TICK under an endless supply and does not end. -/
theorem hostCommand_next_or_unfinished (op : Byte) (during : List (List Byte)) (s : State) :
    (∃ t, hostCommand op during s = .next t) ∨
      op = 0x05#8 ∧ s.rxSupply ≠ [] ∧ hostCommand op during s = .fault .tickUnfinished := by
  by_cases htick : decodeCommand op = .decodeTick
  · unfold hostCommand
    rw [htick]
    obtain ⟨t, hexec⟩ | hexec := exec_decodeTick_next_or_unfinished (issue op during s)
    · exact .inl ⟨_, congrArg settle hexec⟩
    · refine .inr ⟨decodeCommand_eq_decodeTick htick, fun hs => ?_, congrArg settle hexec⟩
      obtain ⟨t, hans⟩ := exec_decodeTick_answers (s := issue op during s) hs
      cases hexec.symm.trans hans
  · obtain ⟨t, hexec⟩ := exec_answers htick (issue op during s)
    exact .inl ⟨_, congrArg settle hexec⟩

/-- A HOST write goes on, or it reaches past the end of `OBUF`. -/
theorem hostWriteObuf_next_or_past (start : Nat) (bytes : List Byte) (s : State) :
    (∃ t, hostWriteObuf start bytes s = .next t) ∨
      bytes ≠ [] ∧ 255 < start + bytes.length ∧
        hostWriteObuf start bytes s = .fault (.bufferRange .obuf (max start 255)) := by
  unfold hostWriteObuf
  by_cases hne : bytes = []
  · exact .inl ⟨setObuf s.obuf s, by rw [hne, bufWriteFrom]⟩
  · by_cases hpast : 255 < start + bytes.length
    · exact .inr ⟨hne, hpast, by rw [bufWriteFrom_past hne hpast]⟩
    · exact .inl ⟨_, by rw [bufWriteFrom_ok .obuf s.obuf start bytes (Nat.le_of_not_lt hpast)]⟩

/-- Settles O54: of the moves only an `OBUF` write and a command can stop. -/
theorem stepStopsOnlyPastObufOrInEndlessTick : Obligations.StepStopsOnlyPastObufOrInEndlessTick := by
  intro s
  cases hscript : s.script with
  | nil => exact .inl ⟨s, by simp [step, runScript, hscript]⟩
  | cons a rest =>
    rw [step_eq_perform hscript]
    cases a with
    | feed bytes => exact .inl ⟨_, rfl⟩
    | args t sd l c => exact .inl ⟨_, rfl⟩
    | writeObuf start bytes =>
      obtain hnext | ⟨hne, hpast, hfault⟩ := hostWriteObuf_next_or_past start bytes (setScript rest s)
      · exact .inl hnext
      · exact .inr (.inl ⟨start, bytes, rest, _, rfl, hne, hpast, hfault⟩)
    | command op during =>
      obtain hnext | ⟨rfl, hs, hfault⟩ := hostCommand_next_or_unfinished op during (setScript rest s)
      · exact .inl hnext
      · exact .inr (.inr ⟨during, rest, rfl, hs, hfault⟩)
    | supply bytes => exact .inl ⟨_, rfl⟩
    | reset => exact .inl ⟨_, rfl⟩
    | listenOnly level => exact .inl ⟨_, rfl⟩

end Sys2Proof.Machine
end

section
/-! Bytes that come late (20_memory.md R52) and streams that come in pieces (41_rx_decoder.md R116). A sub-step whose
check has passed commutes with bytes that come behind, so every way of feeding a stream makes the same reads as that
stream there at once; those are a deterministic transition, which stops where no check passes. -/

namespace Sys2Proof.Machine

open StateTransition

/-! ### A sub-step whose availability check has passed (R52) -/

/-- More bytes behind the unread ones, and other batches to come. -/
def withArrivals (bs : List Byte) (during : List (List Byte)) (s : State) : State :=
  { s with rx := s.rx ++ bs, rxDuring := during }

/-- Another code in LAST_RESULT. -/
def withCode (c : ResultCode) (s : State) : State := { s with lastResult := c }

theorem rxAdvance_withArrivals {n : Nat} {s : State} (hn : n ≤ s.rx.length) (bs : List Byte)
    (during : List (List Byte)) :
    rxAdvance n (withArrivals bs during s) = withArrivals bs during (rxAdvance n s) := by
  simp [rxAdvance, withArrivals, List.drop_append_of_le_length hn]

theorem afterMessage_withArrivals {p : List Byte} {s : State} (hn : p.length + 2 ≤ s.rx.length) (bs : List Byte)
    (during : List (List Byte)) :
    afterMessage p (withArrivals bs during s) = withArrivals bs during (afterMessage p s) := by
  simp [afterMessage, clearPending, setPbuf, rxAdvance, withArrivals, List.drop_append_of_le_length hn]

/-- Under the literal order a header pending does not keep HDR_STEP from asking for five bytes (R91, R165). -/
theorem hdrGate_ok_iff (s : State) :
    hdrGate s = some .ok ↔ s.hdrPending = true ∧ (s.params.hdrAvailFirst = false ∨ 5 ≤ s.rx.length) := by
  by_cases hlen : s.rx.length < 5 <;> cases hp : s.hdrPending <;> cases ho : s.params.hdrAvailFirst <;>
    simp [hdrGate, rxAvail, Config.hdrLen, hlen, hp, ho]
  omega

theorem hdrGate_withArrivals {s : State} (h : hdrGate s ≠ some .needMore) (bs : List Byte)
    (during : List (List Byte)) : hdrGate (withArrivals bs during s) = hdrGate s := by
  have hlong : s.rx.length ≤ (withArrivals bs during s).rx.length := by simp [withArrivals]
  cases hg : hdrGate s with
  | none =>
    obtain ⟨hp, hlen⟩ := (hdrGate_none_iff s).mp hg
    exact (hdrGate_none_iff _).mpr ⟨hp, by omega⟩
  | some r =>
    obtain ⟨rfl, hp⟩ | ⟨rfl, -⟩ := hdrGate_some hg
    · obtain ⟨-, hfive⟩ := (hdrGate_ok_iff s).mp hg
      exact (hdrGate_ok_iff _).mpr ⟨hp, hfive.imp id (by omega)⟩
    · exact absurd hg h

theorem msgGate_withArrivals {s : State} (h : msgGate s ≠ some .needMore) (bs : List Byte)
    (during : List (List Byte)) : msgGate (withArrivals bs during s) = msgGate s := by
  cases hg : msgGate s with
  | none =>
    obtain ⟨hp, hlen⟩ := (msgGate_none_iff s).mp hg
    exact (msgGate_none_iff _).mpr ⟨hp, by simp [withArrivals]; omega⟩
  | some r =>
    obtain ⟨rfl, hp⟩ | ⟨rfl, -⟩ := msgGate_some hg
    · simp [msgGate, withArrivals, hp]
    · exact absurd hg h

theorem finish_hdrVerdict_withArrivals (b0 b1 b2 b3 b4 : Byte) (bs : List Byte) (during : List (List Byte))
    (c : ResultCode) (s : State) :
    finish (.ok (hdrVerdict b0 b1 b2 b3 b4 (withArrivals bs during (withCode c s)))) =
      mapNext (withArrivals bs during) (finish (.ok (hdrVerdict b0 b1 b2 b3 b4 s))) := by
  unfold hdrVerdict
  cases decodeHeader b0 b1 b2 b3 b4 <;> rfl

theorem finish_msgVerdict_withArrivals (p : List Byte) (k f : Byte) (bs : List Byte) (during : List (List Byte))
    (c : ResultCode) (s : State) :
    finish (.ok (msgVerdict p k f (withArrivals bs during (withCode c s)))) =
      mapNext (withArrivals bs during) (finish (.ok (msgVerdict p k f s))) := by
  by_cases hk : k = cksum s.hdrSender s.hdrTarget p
  · by_cases hf : f = Config.footerMark
    · rw [msgVerdict_of_valid hk hf, msgVerdict_of_valid (s := withArrivals bs during (withCode c s)) hk hf]
      rfl
    · rw [msgVerdict_of_footer_ne hk hf,
        msgVerdict_of_footer_ne (s := withArrivals bs during (withCode c s)) hk hf]
      rfl
  · rw [msgVerdict_of_checksum_ne hk,
      msgVerdict_of_checksum_ne (s := withArrivals bs during (withCode c s)) hk]
    rfl

/-- TRY_READ_HEADER, unless it waits for bytes, is the same whatever comes late and whatever result stood before. -/
theorem exec_tryReadHeader_withArrivals {s : State} (h : hdrGate s ≠ some .needMore) (bs : List Byte)
    (during : List (List Byte)) (c : ResultCode) :
    exec .tryReadHeader (withArrivals bs during (withCode c s)) =
      mapNext (withArrivals bs during) (exec .tryReadHeader s) := by
  have hg' := hdrGate_withArrivals (s := withCode c s) h bs during
  show finish (hdrStep _) = mapNext _ (finish (hdrStep s))
  cases hg : hdrGate s with
  | some r =>
    rw [hdrStep, hdrStepOn_wait (hg'.trans hg), hdrStep, hdrStepOn_wait hg]
    rfl
  | none =>
    have hlen : 5 ≤ s.rx.length := ((hdrGate_none_iff s).mp hg).2
    obtain ⟨b0, b1, b2, b3, b4, rest, hr⟩ := rx_five hg
    have hr' : (withArrivals bs during (withCode c s)).rx = b0 :: b1 :: b2 :: b3 :: b4 :: (rest ++ bs) :=
      congrArg (· ++ bs) hr
    rw [hdrStep, hdrStepOn_go (unit := none) (hg'.trans hg) (congrArg (List.take 5) hr'), hdrStep,
      hdrStepOn_go (unit := none) hg (congrArg (List.take 5) hr), rxAdvance_withArrivals (s := withCode c s) hlen]
    exact finish_hdrVerdict_withArrivals b0 b1 b2 b3 b4 bs during c (rxAdvance 5 s)

theorem exec_tryReadMessage_withArrivals {s : State} (h : msgGate s ≠ some .needMore) (bs : List Byte)
    (during : List (List Byte)) (c : ResultCode) :
    exec .tryReadMessage (withArrivals bs during (withCode c s)) =
      mapNext (withArrivals bs during) (exec .tryReadMessage s) := by
  have hg' := msgGate_withArrivals (s := withCode c s) h bs during
  show finish (msgStep _) = mapNext _ (finish (msgStep s))
  cases hg : msgGate s with
  | some r =>
    rw [msgStep, msgStepOn_wait (hg'.trans hg), msgStep, msgStepOn_wait hg]
    rfl
  | none =>
    have hp := ((msgGate_none_iff s).mp hg).1
    obtain ⟨p, k, f, rest, hr, hl⟩ := rx_message hg
    have hr' : (withArrivals bs during (withCode c s)).rx = p ++ k :: f :: (rest ++ bs) := by
      simp [withArrivals, withCode, hr]
    have hp' : (withArrivals bs during (withCode c s)).hdrPending = true := hp
    rw [msgStep, msgStepOn_go hp' hr' hl rfl, msgStep, msgStepOn_go hp hr hl rfl,
      afterMessage_withArrivals (s := withCode c s) (by simp [withCode, hr])]
    exact finish_msgVerdict_withArrivals p k f bs during c (afterMessage p s)

theorem hdrGate_ne_needMore {s t : State} (h : exec .tryReadHeader s = .next t)
    (hr : t.lastResult ≠ resultCode .needMore) : hdrGate s ≠ some .needMore := by
  intro hg
  have hwait : exec .tryReadHeader s = .next (setResult .needMore s) := congrArg finish (hdrStepOn_wait hg)
  cases h.symm.trans hwait
  exact hr rfl

theorem msgGate_ne_needMore {s t : State} (h : exec .tryReadMessage s = .next t)
    (hr : t.lastResult ≠ resultCode .needMore) : msgGate s ≠ some .needMore := by
  intro hg
  have hwait : exec .tryReadMessage s = .next (setResult .needMore s) := congrArg finish (msgStepOn_wait hg)
  cases h.symm.trans hwait
  exact hr rfl

/-- Settles O48: a sub-step that does not answer NEED_MORE has passed its check, and leaves the batches to come alone. -/
theorem lateArrivalOnlyAdds : Obligations.LateArrivalOnlyAdds := by
  intro i s bytes hi
  have hrec : isReceive i = true ∧ i ≠ .decodeTick := by obtain rfl | rfl := hi <;> exact ⟨rfl, nofun⟩
  obtain ⟨t, r, hsub, hexec⟩ := exec_subStep hrec.1 hrec.2 s
  refine ⟨setResult r t, hexec, fun hr => ?_⟩
  have hlate : exec i (withArrivals bytes s.rxDuring (withCode s.lastResult s)) =
      mapNext (withArrivals bytes s.rxDuring) (exec i s) := by
    obtain rfl | rfl := hi
    · exact exec_tryReadHeader_withArrivals (hdrGate_ne_needMore hexec hr) bytes s.rxDuring s.lastResult
    · exact exec_tryReadMessage_withArrivals (msgGate_ne_needMore hexec hr) bytes s.rxDuring s.lastResult
  have hkeep : withArrivals bytes s.rxDuring (setResult r t) = { setResult r t with rx := t.rx ++ bytes } := by
    rw [← hsub.rxDuring_eq]
    rfl
  rw [hexec] at hlate
  exact hlate.trans (congrArg Host.Outcome.next hkeep)

/-! ### The reading of a stream (R116) -/

/-- The next sub-step that reads, if its bytes are there: TRY_READ_HEADER with none pending, else TRY_READ_MESSAGE. The
result of the one before, which no sub-step looks at, is not kept. -/
def readNext (s : State) : Option State :=
  if s.rx.length < checkNeed s then none
  else
    match exec (if s.hdrPending then .tryReadMessage else .tryReadHeader) s with
    | .next t => some (withCode 0x0#4 t)
    | .fault _ => none
    | .refused _ => none

theorem readNext_short {s : State} (h : s.rx.length < checkNeed s) : readNext s = none := if_pos h

theorem readNext_header {s t : State} (hg : hdrGate s = none) (h : exec .tryReadHeader s = .next t) :
    readNext s = some (withCode 0x0#4 t) := by
  obtain ⟨hp, hlen⟩ := (hdrGate_none_iff s).mp hg
  simp [readNext, checkNeed, Config.hdrLen, hp, hlen, h]

theorem readNext_message {s t : State} (hg : msgGate s = none) (h : exec .tryReadMessage s = .next t) :
    readNext s = some (withCode 0x0#4 t) := by
  obtain ⟨hp, hlen⟩ := (msgGate_none_iff s).mp hg
  simp [readNext, checkNeed, messageNeed, pendingLength, Config.trailerLen, hp, hlen, h]

/-- The state with all of its stream there: the batches to come and `more` after them. -/
def caughtUp (more : List Byte) (s : State) : State :=
  withArrivals (s.rxDuring.flatten ++ more) [] (withCode 0x0#4 s)

/-- The premises of R116: the default order of checks, an unbounded RX_SOURCE, no endless supply. -/
structure PlainSource (s : State) : Prop where
  order : s.params.hdrAvailFirst = false
  cap : s.params.rxCap = none
  supply : s.rxSupply = []

/-- `t` comes from `s` by reading the stream, `bs` having been fed on the way, whatever comes after that. -/
def ReadsTo (bs : List Byte) (s t : State) : Prop :=
  ∀ more, Reaches readNext (caughtUp (bs ++ more) s) (caughtUp more t)

theorem ReadsTo.refl (s : State) : ReadsTo [] s s := fun _ => .refl

theorem ReadsTo.trans {as bs : List Byte} {s t u : State} (h : ReadsTo as s t) (h' : ReadsTo bs t u) :
    ReadsTo (as ++ bs) s u := fun more => by
  rw [List.append_assoc]
  exact Relation.ReflTransGen.trans (h (bs ++ more)) (h' more)

/-- The whole stream is the same before and after. -/
theorem ReadsTo.of_caughtUp_eq {bs : List Byte} {s t : State}
    (h : ∀ more, caughtUp more t = caughtUp (bs ++ more) s) : ReadsTo bs s t := fun more => by
  rw [h]
  exact .refl

theorem rxArrive_readsTo {s : State} (hs : PlainSource s) : ReadsTo [] s (rxArrive s) :=
  .of_caughtUp_eq fun more => by
    cases hd : s.rxDuring with
    | nil =>
      rw [rxArrive_none hd hs.supply]
      rfl
    | cons batch batches =>
      rw [rxArrive_unbounded hd hs.cap]
      simp [caughtUp, withArrivals, withCode, hd]

theorem rxSettle_readsTo {s : State} (hs : PlainSource s) : ReadsTo [] s (rxSettle s) :=
  .of_caughtUp_eq fun more => by
    rw [rxSettle, rxAppend_unbounded (by exact hs.cap)]
    simp [caughtUp, withArrivals, withCode]

theorem rxAppend_readsTo {s : State} (hs : PlainSource s) (bs : List Byte) (hd : s.rxDuring = []) :
    ReadsTo bs s (rxAppend bs s) :=
  .of_caughtUp_eq fun more => by
    rw [rxAppend_unbounded hs.cap]
    simp [caughtUp, withArrivals, withCode, hd]

/-- Batches to come are fed in their order. -/
theorem withDuring_readsTo {s : State} (during : List (List Byte)) (hd : s.rxDuring = []) :
    ReadsTo during.flatten s { s with rxDuring := during } :=
  .of_caughtUp_eq fun more => by simp [caughtUp, withArrivals, withCode, hd]

theorem hdrGate_caughtUp {s : State} (hg : hdrGate s = none) (more : List Byte) :
    hdrGate (caughtUp more s) = none := by
  obtain ⟨hp, hlen⟩ := (hdrGate_none_iff s).mp hg
  exact (hdrGate_none_iff _).mpr ⟨hp, by simp [caughtUp, withArrivals, withCode]; omega⟩

theorem msgGate_caughtUp {s : State} (hg : msgGate s = none) (more : List Byte) :
    msgGate (caughtUp more s) = none := by
  obtain ⟨hp, hlen⟩ := (msgGate_none_iff s).mp hg
  exact (msgGate_none_iff _).mpr ⟨hp, by simp [caughtUp, withArrivals, withCode]; omega⟩

/-- A command whose bytes are there does the same with the whole stream behind them. -/
theorem readsTo_of_exec {i : Instr} {s t : State} {r : Result} (hsub : SubStep s t r)
    (hexec : exec i s = .next (setResult r t))
    (hlate : ∀ bs, exec i (withArrivals bs [] (withCode 0x0#4 s)) = mapNext (withArrivals bs []) (exec i s))
    (hnext : ∀ more u, exec i (caughtUp more s) = .next u → readNext (caughtUp more s) = some (withCode 0x0#4 u)) :
    ReadsTo [] s t := fun more => by
  have hwhole : exec i (caughtUp more s) = .next (withArrivals (t.rxDuring.flatten ++ more) [] (setResult r t)) := by
    rw [hsub.rxDuring_eq, caughtUp, hlate, hexec]
    rfl
  exact .single (hnext more _ hwhole)

theorem hdrStep_readsTo {s t : State} {r : Result} (h : hdrStep s = .ok (t, r)) : ReadsTo [] s t := by
  cases hg : hdrGate s with
  | some r' =>
    rw [hdrStep, hdrStepOn_wait hg] at h
    cases h
    exact .refl s
  | none =>
    exact readsTo_of_exec (i := .tryReadHeader) (hdrStep_subStep h) (congrArg finish h)
      (fun bs => exec_tryReadHeader_withArrivals (by simp [hg]) bs [] 0x0#4)
      fun more _ => readNext_header (hdrGate_caughtUp hg more)

theorem msgStep_readsTo {s t : State} {r : Result} (h : msgStep s = .ok (t, r)) : ReadsTo [] s t := by
  cases hg : msgGate s with
  | some r' =>
    rw [msgStep, msgStepOn_wait hg] at h
    cases h
    exact .refl s
  | none =>
    exact readsTo_of_exec (i := .tryReadMessage) (msgStep_subStep h) (congrArg finish h)
      (fun bs => exec_tryReadMessage_withArrivals (by simp [hg]) bs [] 0x0#4)
      fun more _ => readNext_message (msgGate_caughtUp hg more)

/-! NEED_MORE says that the next check does not pass; under the default order HDR_STEP says it with none pending only. -/

theorem hdrStep_needMore_short {s t : State} (ho : s.params.hdrAvailFirst = false)
    (h : hdrStep s = .ok (t, .needMore)) : t.rx.length < checkNeed t := by
  obtain ⟨hg, rfl⟩ | ⟨_, _, _, _, _, _, -, -, ⟨-, habs, -⟩ | ⟨e, hd, he, -⟩⟩ := hdrStep_cases h
  · have hp : t.hdrPending ≠ true := fun hp => by
      have hok := (hdrGate_ok_iff t).mpr ⟨hp, .inl ho⟩
      cases hok.symm.trans hg
    obtain ⟨habs, -⟩ | ⟨-, hlen⟩ := hdrGate_some hg
    · cases habs
    · simpa [checkNeed, hp, Config.hdrLen] using hlen
  · cases habs
  · have herr := rejection_isError_of_decodeHeader hd
    rw [← he] at herr
    cases herr

theorem msgStep_needMore_short {s t : State} (h : msgStep s = .ok (t, .needMore)) : t.rx.length < checkNeed t := by
  obtain ⟨hg, rfl⟩ | ⟨_, _, _, _, -, -, -, ⟨-, -, habs, -⟩ | ⟨-, habs, -⟩ | ⟨-, -, habs, -⟩⟩ :=
    msgStep_cases h
  · obtain ⟨habs, -⟩ | ⟨-, hp, hlen⟩ := msgGate_some hg
    · cases habs
    · simpa [checkNeed, hp, messageNeed, pendingLength, Config.trailerLen] using hlen
  · cases habs
  · cases habs
  · cases habs

namespace PlainSource

variable {s t : State} {r : Result}

theorem subStep (hs : PlainSource s) (h : SubStep s t r) : PlainSource t where
  order := by rw [h.params_eq, hs.order]
  cap := by rw [h.params_eq, hs.cap]
  supply := by rw [h.rxSupply_eq, hs.supply]

theorem rxArrive (hs : PlainSource s) : PlainSource (rxArrive s) where
  order := by rw [rxArrive_params, hs.order]
  cap := by rw [rxArrive_params, hs.cap]
  supply := rxArrive_rxSupply_nil hs.supply

theorem rxAppend (hs : PlainSource s) (bs : List Byte) : PlainSource (rxAppend bs s) where
  order := by rw [rxAppend_params, hs.order]
  cap := by rw [rxAppend_params, hs.cap]
  supply := by rw [rxAppend_rxSupply, hs.supply]

theorem rxSettle (hs : PlainSource s) : PlainSource (rxSettle s) :=
  rxAppend (s := { s with rxDuring := [] }) ⟨hs.order, hs.cap, hs.supply⟩ s.rxDuring.flatten

end PlainSource

/-- What a tick comes to: a state that reading the stream comes to, at which the next check fails if it ended with
NEED_MORE. -/
structure TickReads (s t : State) (r : Result) : Prop where
  source : PlainSource t
  reads : ReadsTo [] s t
  short : r = .needMore → t.rx.length < checkNeed t

theorem tickLoop_reads {n : Nat} {s t : State} {r : Result} (h : tickLoop n s = .ok (t, r)) (hs : PlainSource s) :
    TickReads s t r := by
  refine tickLoop_induct (P := fun s t r => PlainSource s → TickReads s t r) ?hdrEnds ?msgEnds ?goesOn h hs
  case hdrEnds =>
    intro s s1 r h1 _ hs
    exact ⟨hs.subStep (hdrStep_subStep h1), hdrStep_readsTo h1,
      fun hr => hdrStep_needMore_short hs.order (by rw [h1, hr])⟩
  case msgEnds =>
    intro s s1 s2 r h1 h2 _ hs
    have hs1 := hs.subStep (hdrStep_subStep h1)
    exact ⟨hs1.rxArrive.subStep (msgStep_subStep h2),
      (hdrStep_readsTo h1).trans ((rxArrive_readsTo hs1).trans (msgStep_readsTo h2)),
      fun hr => msgStep_needMore_short (by rw [h2, hr])⟩
  case goesOn =>
    intro s s1 s2 t r h1 h2 ih hs
    have hs1 := hs.subStep (hdrStep_subStep h1)
    have hs2 := hs1.rxArrive.subStep (msgStep_subStep h2)
    have hrest := ih hs2.rxArrive
    have hframe : ReadsTo [] s (rxArrive s2) := (hdrStep_readsTo h1).trans ((rxArrive_readsTo hs1).trans
      ((msgStep_readsTo h2).trans (rxArrive_readsTo hs2)))
    exact ⟨hrest.source, hframe.trans hrest.reads, hrest.short⟩

theorem exec_decodeTick_reads {s t : State} (hs : PlainSource s) (h : exec .decodeTick s = .next t) :
    ∃ r, TickReads s t r ∧ t.lastResult = resultCode r := by
  obtain ⟨t', r, hloop, rfl⟩ := finish_next h
  obtain ⟨⟨ho, hcap, hsup⟩, hreads, hshort⟩ := tickLoop_reads hloop hs
  exact ⟨r, ⟨⟨ho, hcap, hsup⟩, hreads, hshort⟩, rfl⟩

theorem exec_decodeTick_during_nil {s t : State} (hs : s.rxSupply = []) (hd : s.rxDuring = [])
    (h : exec .decodeTick s = .next t) : t.rxDuring = [] := by
  obtain ⟨t', r, hrun, rfl⟩ := exec_decodeTick_run h
  obtain ⟨-, hkeep⟩ := hrun.consumed hs (.inl hd)
  exact hkeep hd

/-- Between commands: no batch is to come. -/
structure Idle (s : State) : Prop extends PlainSource s where
  during : s.rxDuring = []

theorem tickDuring_reads {during : List (List Byte)} {s t : State} (hs : Idle s)
    (h : tickDuring during s = .next t) : Idle t ∧ ReadsTo during.flatten s t := by
  obtain ⟨t', hexec, rfl⟩ := settle_next h
  obtain ⟨r, htick, -⟩ :=
    exec_decodeTick_reads (s := { s with rxDuring := during }) ⟨hs.order, hs.cap, hs.supply⟩ hexec
  refine ⟨⟨htick.source.rxSettle, rxSettle_rxDuring _⟩, ?_⟩
  simpa using (withDuring_readsTo during hs.during).trans (htick.reads.trans (rxSettle_readsTo htick.source))

theorem ticksDuring_reads {durings : List (List (List Byte))} {s t : State} (hs : Idle s)
    (h : ticksDuring durings s = .next t) : Idle t ∧ ReadsTo durings.flatten.flatten s t := by
  induction durings generalizing s with
  | nil =>
    cases h
    exact ⟨hs, .refl _⟩
  | cons during durings ih =>
    rw [ticksDuring] at h
    cases hu : tickDuring during s with
    | fault f => rw [hu] at h; cases h
    | refused r => rw [hu] at h; cases h
    | next u =>
      rw [hu] at h
      obtain ⟨hsu, hreads⟩ := tickDuring_reads hs hu
      obtain ⟨hst, hrest⟩ := ih hsu h
      refine ⟨hst, ?_⟩
      rw [List.flatten_cons, List.flatten_append]
      exact hreads.trans hrest

theorem feedPieces_reads {ps : List (List Byte × List (List (List Byte)))} {s t : State} (hs : Idle s)
    (h : feedPieces ps s = .next t) : Idle t ∧ ReadsTo (streamOf ps) s t := by
  induction ps generalizing s with
  | nil =>
    cases h
    exact ⟨hs, .refl _⟩
  | cons p ps ih =>
    obtain ⟨piece, durings⟩ := p
    rw [feedPieces] at h
    have hfed : Idle (rxAppend piece s) := ⟨hs.rxAppend piece, by rw [rxAppend_rxDuring, hs.during]⟩
    cases hu : ticksDuring durings (rxAppend piece s) with
    | fault f => rw [hu] at h; cases h
    | refused r => rw [hu] at h; cases h
    | next u =>
      rw [hu] at h
      obtain ⟨hsu, hreads⟩ := ticksDuring_reads hfed hu
      obtain ⟨hst, hrest⟩ := ih hsu h
      exact ⟨hst, ((rxAppend_readsTo hs.toPlainSource piece hs.during).trans hreads).trans hrest⟩

theorem eq_needMore_of_resultCode {r : Result} (h : resultCode r = resultCode .needMore) : r = .needMore := by
  cases r with
  | needMore => rfl
  | _ => exact absurd h (by decide)

theorem caughtUp_nil {s : State} (hd : s.rxDuring = []) : caughtUp [] s = withCode 0x0#4 s := by
  cases s
  simp_all [caughtUp, withArrivals, withCode]

/-- Feeding that ends in a tick with NEED_MORE has read the stream to where no check passes any more. -/
theorem mem_eval_readNext {ps : List (List Byte × List (List (List Byte)))} {s u t : State} (hs : Idle s)
    (hfeed : feedPieces ps s = .next u) (htick : exec .decodeTick u = .next t)
    (hmore : t.lastResult = resultCode .needMore) :
    withCode 0x0#4 t ∈ eval readNext (caughtUp (streamOf ps) s) := by
  obtain ⟨hu, hreads⟩ := feedPieces_reads hs hfeed
  have hd : t.rxDuring = [] := exec_decodeTick_during_nil hu.supply hu.during htick
  obtain ⟨r, ht, hr⟩ := exec_decodeTick_reads hu.toPlainSource htick
  have hall : Reaches readNext (caughtUp (streamOf ps ++ [] ++ []) s) (caughtUp [] t) := hreads.trans ht.reads []
  rw [List.append_nil, List.append_nil, caughtUp_nil hd] at hall
  exact mem_eval.mpr ⟨hall, readNext_short (ht.short (eq_needMore_of_resultCode (hr.symm.trans hmore)))⟩

/-- Settles O49: reading a stream is deterministic, so it ends in one state, but for LAST_RESULT, which is NEED_MORE both
times. -/
theorem splitStreamSameEvents : Obligations.SplitStreamSameEvents := by
  intro s u v t w ps qs ho hcap hd hs hstream hps ht htm hqs hw hwm
  have hidle : Idle s := ⟨⟨ho, hcap, hs⟩, hd⟩
  have hsame : withCode 0x0#4 t = withCode 0x0#4 w :=
    Part.mem_unique (mem_eval_readNext hidle hps ht htm) (hstream ▸ mem_eval_readNext hidle hqs hw hwm)
  have heq : t = w := calc
    t = withCode (resultCode .needMore) (withCode 0x0#4 t) := by rw [← htm]; rfl
    _ = withCode (resultCode .needMore) (withCode 0x0#4 w) := by rw [hsame]
    _ = w := by rw [← hwm]; rfl
  exact ⟨congrArg State.events heq, heq⟩

end Sys2Proof.Machine
end

section
/-! The encodings (30_encoding.md): the decoder and the encoder undo each other in all three spaces. -/

namespace Sys2Proof.Machine

/-! ### Command codes (R64, R66) -/

/-- The reserved codes are those that name no command. -/
theorem isReservedOp_iff (op : Byte) :
    isReservedOp op = true ↔
      op ≠ 0x01#8 ∧ op ≠ 0x02#8 ∧ op ≠ 0x03#8 ∧ op ≠ 0x04#8 ∧ op ≠ 0x05#8 ∧ op ≠ 0x06#8 := by
  simp only [isReservedOp, Bool.or_eq_true, beq_iff_eq, decide_eq_true_eq]
  bv_omega

theorem decodeCommand_of_reserved {op : Byte} (h : isReservedOp op = true) : decodeCommand op = .reservedCmd op := by
  obtain ⟨h1, h2, h3, h4, h5, h6⟩ := (isReservedOp_iff op).mp h
  simp [decodeCommand, h1, h2, h3, h4, h5, h6]

theorem decodeCommand_wellFormed (op : Byte) : (decodeCommand op).wellFormed = true := by
  cases hres : isReservedOp op with
  | true => rwa [decodeCommand_of_reserved hres]
  | false =>
    unfold decodeCommand
    split_ifs with h1 h2 h3 h4 h5 h6
    case neg => exact absurd ((isReservedOp_iff op).mpr ⟨h1, h2, h3, h4, h5, h6⟩) (by simp [hres])
    all_goals rfl

/-- A command's word is its one code. -/
theorem encode_decodeCommand (op : Byte) : encode (decodeCommand op) = [op] := by
  unfold decodeCommand
  split_ifs <;> simp_all [encode]

/-! ### The units of the wire (R62, R63) -/

/-- Five bytes with both marks in place are a header exactly when both addresses are legal. -/
theorem decode_headerBytes_iff (t sd l : Byte) (rest : List Byte) :
    decode .header (headerBytes t sd l ++ rest) = .ok (.frameHeader t sd l, rest) ↔
      legalAddr t = true ∧ legalAddr sd = true := by
  simp only [headerBytes, List.cons_append, List.nil_append, decode]
  cases hd : decodeHeader Config.startMark t sd Config.alignMark l with
  | ok i =>
    obtain ⟨-, -, ht, hsd, rfl⟩ := (decodeHeader_ok_iff ..).mp hd
    exact iff_of_true rfl ⟨ht, hsd⟩
  | error e =>
    refine iff_of_false nofun fun ⟨ht, hsd⟩ => ?_
    cases hd.symm.trans ((decodeHeader_ok_iff ..).mpr ⟨rfl, rfl, ht, hsd, rfl⟩)

/-- Settles O1: a command by its code, a unit of the wire by its bytes. -/
theorem decodeInvertsEncode : Obligations.DecodeInvertsEncode := by
  intro i rest hwf
  cases i with
  | reservedCmd op => exact congrArg (fun j => Except.ok (j, rest)) (decodeCommand_of_reserved hwf)
  | frameHeader t sd l => exact (decode_headerBytes_iff t sd l rest).mpr (Bool.and_eq_true_iff.mp hwf)
  | _ => rfl

/-- Settles O2: in each space the bytes that decode are a unit of it, and the unit is the instruction's word. -/
theorem encodeInvertsDecode : Obligations.EncodeInvertsDecode := by
  intro sp bs rest i h
  cases sp with
  | command =>
    cases bs with
    | nil => cases h
    | cons op more =>
      obtain ⟨rfl, rfl⟩ := Prod.mk.inj (Except.ok.inj h)
      exact ⟨decodeCommand_wellFormed op, decodeCommand_space op, by rw [encode_decodeCommand]; rfl⟩
  | header =>
    obtain ⟨t, sd, l, rfl, rfl⟩ := decode_header_ok h
    exact ⟨Bool.and_eq_true_iff.mpr ((decode_headerBytes_iff t sd l rest).mp h), rfl, rfl⟩
  | trailer =>
    obtain ⟨c, rfl, rfl⟩ := decode_trailer_ok h
    exact ⟨rfl, rfl, rfl⟩

/-- Settles O5: the rows' words are closed terms, so the decoder's answers are computed. -/
theorem tableWordsDecode : Obligations.TableWordsDecode := by
  unfold Obligations.TableWordsDecode
  decide

end Sys2Proof.Machine
end

section
/-! The result codes (60_exceptions.md R130), and the packed values of the wire units (30_encoding.md R62, R63): their
bytes, the masks on them, and which of them are accepted. -/

namespace Sys2Proof.Machine

/-! ### The result codes (R67, R130) -/

/-- The result a code names; for 0xB..0xF, which name none, any. -/
def resultOfCode (c : ResultCode) : Result :=
  match c.toNat with
  | 0x0 => .ok
  | 0x1 => .needMore
  | 0x2 => .noHeader
  | 0x3 => .errStart
  | 0x4 => .errMarker
  | 0x5 => .errTarget
  | 0x6 => .errSender
  | 0x7 => .errChecksum
  | 0x8 => .errFooter
  | 0x9 => .errCmd
  | _ => .txSuppressed

theorem resultOfCode_resultCode (r : Result) : resultOfCode (resultCode r) = r := by
  cases r <;> rfl

theorem resultCode_injective : Function.Injective resultCode :=
  Function.LeftInverse.injective resultOfCode_resultCode

/-- Settles O24: a result can be read back from its code, and each code is in its range. -/
theorem resultCodeTable : Obligations.ResultCodeTable := by
  refine ⟨by decide, fun r r' h => resultCode_injective h, fun r => ?_⟩
  cases r <;> decide

/-! ### The bytes of a packed value -/

/-- The byte that `wireBytes` takes at place `n` is the slice of bits there. -/
theorem ofNat_div_eq_extractLsb' {w : Nat} (x : BitVec w) (n : Nat) :
    BitVec.ofNat 8 (x.toNat / 256 ^ n) = x.extractLsb' (8 * n) 8 := by
  rw [BitVec.extractLsb', Nat.shiftRight_eq_div_pow, Nat.pow_mul]

theorem wireBytes_five {w : Nat} (x : BitVec w) :
    wireBytes 5 x.toNat =
      [x.extractLsb' 32 8, x.extractLsb' 24 8, x.extractLsb' 16 8, x.extractLsb' 8 8, x.extractLsb' 0 8] := by
  simp only [wireBytes, ofNat_div_eq_extractLsb']

theorem wireBytes_two {w : Nat} (x : BitVec w) : wireBytes 2 x.toNat = [x.extractLsb' 8 8, x.extractLsb' 0 8] := by
  simp only [wireBytes, ofNat_div_eq_extractLsb']

/-- A packed value is determined by its bytes. -/
theorem eq_iff_extractLsb'_bytes {n : Nat} (x y : BitVec (8 * n)) :
    x = y ↔ ∀ k < n, x.extractLsb' (8 * k) 8 = y.extractLsb' (8 * k) 8 := by
  refine ⟨fun h _ _ => by rw [h], fun h => BitVec.eq_of_getLsbD_eq fun i hi => ?_⟩
  have hbit : ∀ z : BitVec (8 * n), z.getLsbD i = (z.extractLsb' (8 * (i / 8)) 8).getLsbD (i % 8) := fun z => by
    simp [Nat.mod_lt, Nat.div_add_mod]
  rw [hbit x, hbit y, h (i / 8) (by omega)]

/-- A byte under a mask of all its bits, and one under a mask of none. -/
theorem and_byte_masks (b : Byte) : b &&& 0xFF#8 = b ∧ b &&& 0x00#8 = 0x00#8 :=
  ⟨BitVec.and_allOnes, BitVec.and_zero⟩

/-- The header's mask looks at the two marks (R62). -/
theorem headerMask_iff (H : BitVec 40) :
    H &&& 0xFF0000FF00#40 = 0x0100000100#40 ↔ H.extractLsb' 32 8 = 0x01#8 ∧ H.extractLsb' 8 8 = 0x01#8 := by
  rw [eq_iff_extractLsb'_bytes (n := 5)]
  simp only [Nat.forall_lt_succ_right, BitVec.extractLsb'_and]
  simp [and_byte_masks, and_comm]

/-- The trailer's mask looks at the footer (R63). -/
theorem trailerMask_iff (T : BitVec 16) : T &&& 0x00FF#16 = 0x0004#16 ↔ T.extractLsb' 0 8 = 0x04#8 := by
  rw [eq_iff_extractLsb'_bytes (n := 2)]
  simp only [Nat.forall_lt_succ_right, BitVec.extractLsb'_and]
  simp [and_byte_masks]

/-! ### Acceptance (R62, R63) -/

/-- Bytes decode as a header and no more exactly when they are the word of a legal one. -/
theorem decode_header_nil_iff (b0 b1 b2 b3 b4 : Byte) :
    (∃ i, decode .header [b0, b1, b2, b3, b4] = .ok (i, [])) ↔
      b0 = 0x01#8 ∧ b3 = 0x01#8 ∧ b1 ≤ 0x20#8 ∧ b2 ≤ 0x20#8 := by
  rw [← legalAddr_iff, ← legalAddr_iff]
  constructor
  · rintro ⟨i, h⟩
    obtain ⟨t, sd, l, hbs, rfl⟩ := decode_header_ok h
    rw [hbs] at h
    cases hbs
    exact ⟨rfl, rfl, (decode_headerBytes_iff ..).mp h⟩
  · rintro ⟨rfl, rfl, h⟩
    exact ⟨_, (decode_headerBytes_iff b1 b2 b4 []).mpr h⟩

/-- Settles O3: the packed value's bytes, and the mask, on each. -/
theorem headerAcceptedByPattern : Obligations.HeaderAcceptedByPattern := by
  intro H
  refine ⟨wireBytes_five H, ?_⟩
  rw [wireBytes_five, decode_header_nil_iff, headerMask_iff, and_assoc]

/-- A message is accepted under R100 and R101. -/
theorem msgVerdict_ok_iff {p : List Byte} {c f : Byte} {s : State} :
    (msgVerdict p c f s).2 = .ok ↔ c = cksum s.hdrSender s.hdrTarget p ∧ f = Config.footerMark := by
  by_cases hc : c = cksum s.hdrSender s.hdrTarget p
  · by_cases hf : f = Config.footerMark
    · rw [msgVerdict_of_valid hc hf]
      exact iff_of_true rfl ⟨hc, hf⟩
    · rw [msgVerdict_of_footer_ne hc hf]
      exact iff_of_false nofun fun h => hf h.2
  · rw [msgVerdict_of_checksum_ne hc]
    exact iff_of_false nofun fun h => hc h.1

/-- Settles O4: MSG_STEP reads the payload and the two bytes, and judges them by R100 and R101. -/
theorem trailerAcceptedByPattern : Obligations.TrailerAcceptedByPattern := by
  intro s p rest T hp hr hl
  refine ⟨wireBytes_two T, (trailerMask_iff T).symm, _,
    congrArg finish (msgStepOn_go (unit := none) hp hr hl rfl), ?_⟩
  exact resultCode_injective.eq_iff.trans msgVerdict_ok_iff

end Sys2Proof.Machine
end

section
/-! A reserved code and the two wire units as instructions (30_encoding.md R62, R63, R66; log 10). -/

namespace Sys2Proof.Machine

/-- Settles O23: whatever the code, the instruction raises ERR_CMD, and a step that writes a reserved code runs it. -/
theorem reservedCommandResult : Obligations.ReservedCommandResult := by
  refine ⟨fun op s => rfl, fun s op rest hop hscript hd => ?_⟩
  have hres : isReservedOp op = true := by simpa [isReservedOp] using hop
  have hissue : issue op [] (setScript rest s) = { s with script := rest, cmdOp := op } := by
    simp [issue, setScript, hd]
  rw [step_eq_perform hscript, perform, hostCommand, decodeCommand_of_reserved hres, hissue]
  exact congrArg Host.Outcome.next (rxSettle_none hd)

/-- Settles O39: HDR_STEP goes on to its pops and accepts the unit, whose marks are its own. -/
theorem frameHeaderUnit : Obligations.FrameHeaderUnit := by
  intro s t sd l hp hlen ht hsd
  have hg : hdrGate s = none := (hdrGate_none_iff s).mpr ⟨hp, hlen⟩
  have hok : decodeHeader Config.startMark t sd Config.alignMark l = .ok (.frameHeader t sd l) :=
    (decodeHeader_ok_iff ..).mpr ⟨rfl, rfl, (legalAddr_iff t).mpr ht, (legalAddr_iff sd).mpr hsd, rfl⟩
  have hstep : hdrStepOn (some (headerBytes t sd l)) s = .ok (loadHeader t sd l (rxAdvance 5 s), .ok) := by
    rw [hdrStepOn_go hg rfl, hdrVerdict, hok]
  exact congrArg finish hstep

/-- FRAME_TRAILER with its message there: MSG_STEP's verdict on the bytes before the unit and the unit's own checksum
byte. -/
theorem exec_frameTrailer_go {s : State} (c : Byte) (hp : s.hdrPending = true)
    (hlen : s.hdrLength.toNat + 2 ≤ s.rx.length) :
    exec (.frameTrailer c) s = finish (.ok (msgVerdict (s.rx.take s.hdrLength.toNat) c Config.footerMark
      (afterMessage (s.rx.take s.hdrLength.toNat) s))) := by
  obtain ⟨p, c', f', rest, hr, hl⟩ := rx_message ((msgGate_none_iff s).mpr ⟨hp, hlen⟩)
  have hpayload : s.rx.take s.hdrLength.toNat = p := by rw [hr, ← hl, List.take_left]
  rw [hpayload]
  exact congrArg finish (msgStepOn_go (unit := some (trailerBytes c)) hp hr hl rfl)

/-- Settles O40: a delivery leaves the payload in `PBUF`, and a checksum byte that is not the payload's is the one error
of a unit whose footer is its own. -/
theorem frameTrailerUnit : Obligations.FrameTrailerUnit := by
  rintro s c p hp hlen rfl
  have hl : (s.rx.take s.hdrLength.toNat).length = s.hdrLength.toNat := by rw [List.length_take]; omega
  rw [exec_frameTrailer_go c hp hlen]
  generalize s.rx.take s.hdrLength.toNat = p at hl
  by_cases hc : c = cksum s.hdrSender s.hdrTarget p
  · refine ⟨bufFill s.pbuf 0 p, ?_, fun _ => ⟨fun i hi => ?_, fun i hi => ?_⟩⟩
    · rw [msgVerdict_of_valid (s := afterMessage p s) hc rfl, if_pos hc, afterMessage, hl]
      rfl
    · simpa using bufByte_bufFill_inside .pbuf s.pbuf 0 p i hi
    · exact bufByte_bufFill_outside .pbuf s.pbuf 0 p i (by omega)
  · refine ⟨bufForget (bufFill s.pbuf 0 p), ?_, fun h => absurd h hc⟩
    rw [msgVerdict_of_checksum_ne (s := afterMessage p s) hc, if_neg hc, afterMessage, hl]
    rfl

end Sys2Proof.Machine
end

section
/-! What a tick reads (41_rx_decoder.md R111 to R114): from a state with none pending, whole valid frames off the head
of the stream, and then the bytes its end accounts for. -/

namespace Sys2Proof.Machine

/-! ### The stream under one sub-step -/

/-- RX_SOURCE appends finitely many bytes, and loses none. -/
structure LosslessSource (s : State) : Prop where
  supply : s.rxSupply = []
  during : s.rxDuring = [] ∨ s.params.rxCap = none

namespace LosslessSource

variable {s t : State} {r : Result}

theorem subStep (hs : LosslessSource s) (h : SubStep s t r) : LosslessSource t where
  supply := h.rxSupply_eq.trans hs.supply
  during := by rw [h.rxDuring_eq, h.params_eq]; exact hs.during

theorem rxArrive (hs : LosslessSource s) : LosslessSource (rxArrive s) where
  supply := rxArrive_rxSupply_nil hs.supply
  during := hs.during.imp (rxArrive_rxDuring_nil hs.supply) (by rw [rxArrive_params]; exact id)

theorem arrived (hs : LosslessSource s) : Consumed 0 s (Machine.rxArrive s) := rxArrive_consumed hs.supply hs.during

end LosslessSource

/-- HDR_STEP took a legal header from the head of the stream, and more may have arrived since: `u` waits for its message
(R92). -/
structure HeaderTaken (s u : State) : Prop where
  pending : u.hdrPending = true
  target : legalAddr u.hdrTarget = true
  sender : legalAddr u.hdrSender = true
  head : unread s = headerBytes u.hdrTarget u.hdrSender u.hdrLength ++ unread u
  consumed : Consumed 5 s u
  events : u.events = s.events

theorem hdrStep_ok_takes_header {s s1 : State} (hs : LosslessSource s) (hp : s.hdrPending = false)
    (h : hdrStep s = .ok (s1, .ok)) : HeaderTaken s (rxArrive s1) := by
  obtain ⟨hg, -⟩ | ⟨b0, b1, b2, b3, b4, rest, -, hr, ⟨hd, -, rfl⟩ | ⟨e, hd, habs, -⟩⟩ := hdrStep_cases h
  · exact absurd ((hdrGate_ok_iff s).mp hg).1 (by simp [hp])
  · obtain ⟨rfl, rfl, ht, hsd, -⟩ := (decodeHeader_ok_iff ..).mp hd
    have htaken : Consumed 5 s (loadHeader b1 b2 b4 (rxAdvance 5 s)) := .of_rx (by simp [hr]) rfl rfl rfl
    have hall := htaken.trans (hs.subStep (hdrStep_subStep h)).arrived
    refine ⟨by simp, by simpa using ht, by simpa using hsd, ?_, hall, by simp⟩
    rw [hall.unread_eq]
    simp [unread, hr, headerBytes]
  · have herr := rejection_isError_of_decodeHeader hd
    rw [← habs] at herr
    cases herr

/-- A message with its trailer at the head of the stream, and what comes behind it. -/
theorem unread_message {u : State} {p rest : List Byte} {c f : Byte} (hr : u.rx = p ++ c :: f :: rest) :
    unread u = p ++ c :: f :: (rest ++ u.rxDuring.flatten) := by
  simp [unread, hr]

/-! ### The end of a tick -/

/-- How a tick that ends in `t` has consumed `k` of the bytes `left` after the last frame it delivered. -/
inductive TickEnd (left : List Byte) (t : State) : Nat → Result → Prop
  | idle (hp : t.hdrPending = false) (hlen : t.rx.length < 5) : TickEnd left t 0 .needMore
  | headerPending {more : List Byte} (hp : t.hdrPending = true) (ht : legalAddr t.hdrTarget = true)
      (hsd : legalAddr t.hdrSender = true)
      (hleft : left = headerBytes t.hdrTarget t.hdrSender t.hdrLength ++ more)
      (hlen : t.rx.length < t.hdrLength.toNat + 2) : TickEnd left t 5 .needMore
  | badHeader {b0 b1 b2 b3 b4 : Byte} {more : List Byte} {e : DecodeError} (hp : t.hdrPending = false)
      (hleft : left = b0 :: b1 :: b2 :: b3 :: b4 :: more) (hd : decodeHeader b0 b1 b2 b3 b4 = .error e) :
      TickEnd left t 5 (rejection e)
  | badMessage {p more : List Byte} {c f : Byte} {e : Result} (hp : t.hdrPending = false)
      (ht : legalAddr t.hdrTarget = true) (hsd : legalAddr t.hdrSender = true)
      (hleft : left = headerBytes t.hdrTarget t.hdrSender t.hdrLength ++ p ++ c :: f :: more)
      (hl : p.length = t.hdrLength.toNat)
      (hbad : (c ≠ cksum t.hdrSender t.hdrTarget p ∧ e = .errChecksum) ∨
        (c = cksum t.hdrSender t.hdrTarget p ∧ f ≠ Config.footerMark ∧ e = .errFooter)) :
      TickEnd left t (t.hdrLength.toNat + 7) e

/-- The account of a tick from `s` that ends in `t` with result `r`: the frames of its deliveries `ds` stood at the head
of the stream, and `k` of the bytes `left` behind them are consumed. -/
structure TickAccount (ds : List Event) (left : List Byte) (k : Nat) (s t : State) (r : Result) : Prop where
  deliveries : ds.all isDelivery = true
  legal : ds.all eventLegal = true
  head : unread s = deliveredBytes ds ++ left
  consumed : Consumed ((deliveredBytes ds).length + k) s t
  events : t.events = s.events ++ ds ++ diagOf r
  ending : TickEnd left t k r

/-- A tick that delivers nothing. -/
theorem TickAccount.of_no_delivery {k : Nat} {s t : State} {r : Result} (hend : TickEnd (unread s) t k r)
    (hk : Consumed k s t) (hev : t.events = s.events ++ diagOf r) : TickAccount [] (unread s) k s t r where
  deliveries := rfl
  legal := rfl
  head := rfl
  consumed := by simpa [deliveredBytes] using hk
  events := by simpa using hev
  ending := hend

/-- A tick whose HDR_STEP fails waits for a header's bytes, or has rejected them (R91, R93). -/
theorem hdrStep_fails_account {s t : State} {r : Result} (hp : s.hdrPending = false)
    (h : hdrStep s = .ok (t, r)) (hr : r ≠ .ok) : ∃ k, TickAccount [] (unread s) k s t r := by
  obtain ⟨hg, rfl⟩ | ⟨b0, b1, b2, b3, b4, rest, -, hrx, ⟨-, habs, -⟩ | ⟨e, hd, rfl, rfl⟩⟩ := hdrStep_cases h
  · obtain ⟨habs, -⟩ | ⟨rfl, hlen⟩ := hdrGate_some hg
    · exact absurd habs hr
    · exact ⟨0, .of_no_delivery (.idle hp hlen) (.of_rx (Nat.zero_le _) rfl rfl rfl) (List.append_nil _).symm⟩
  · exact absurd habs hr
  · have hend : TickEnd (unread s) (raise (rejection e) (rxAdvance 5 s)) 5 (rejection e) :=
      .badHeader (more := rest ++ s.rxDuring.flatten) hp (by simp [unread, hrx]) hd
    refine ⟨5, .of_no_delivery hend (.of_rx (by simp [hrx]) rfl rfl rfl) ?_⟩
    rw [diagOf_error (rejection_isError_of_decodeHeader hd)]
    rfl

/-- A tick that rejects the message of the header it took has consumed both (R98, R100, R101). -/
theorem rejectMessage_account {s u : State} {p rest : List Byte} {c f : Byte} {e : Result} (hu : HeaderTaken s u)
    (hrx : u.rx = p ++ c :: f :: rest) (hl : p.length = u.hdrLength.toNat)
    (hbad : (c ≠ cksum u.hdrSender u.hdrTarget p ∧ e = .errChecksum) ∨
      (c = cksum u.hdrSender u.hdrTarget p ∧ f ≠ Config.footerMark ∧ e = .errFooter)) :
    TickAccount [] (unread s) (u.hdrLength.toNat + 7) s (rejectMessage e (afterMessage p u)).1 e := by
  have herr : e.isError = true := by obtain ⟨-, rfl⟩ | ⟨-, -, rfl⟩ := hbad <;> rfl
  have hmsg : Consumed (p.length + 2) u (rejectMessage e (afterMessage p u)).1 :=
    .of_rx (by simp [hrx]) rfl rfl rfl
  have hk : 5 + (p.length + 2) = u.hdrLength.toNat + 7 := by omega
  refine .of_no_delivery ?_ (hk ▸ hu.consumed.trans hmsg) ?_
  · refine .badMessage (more := rest ++ u.rxDuring.flatten) rfl hu.target hu.sender ?_ hl hbad
    rw [hu.head, unread_message hrx, List.append_assoc]
    rfl
  · rw [diagOf_error herr, ← hu.events]
    rfl

/-- A tick whose MSG_STEP fails waits for the message of the header it took, or has rejected it (R97). -/
theorem msgStep_fails_account {s u t : State} {r : Result} (hu : HeaderTaken s u)
    (h : msgStep u = .ok (t, r)) (hr : r ≠ .ok) : ∃ k, TickAccount [] (unread s) k s t r := by
  obtain ⟨hg, rfl⟩ | ⟨p, c, f, rest, -, hrx, hl, ⟨-, -, habs, -⟩ | ⟨hc, rfl, rfl⟩ | ⟨hc, hf, rfl, rfl⟩⟩ :=
    msgStep_cases h
  · obtain ⟨-, habs⟩ | ⟨rfl, -, hlen⟩ := msgGate_some hg
    · exact absurd hu.pending (by simp [habs])
    · exact ⟨5, .of_no_delivery (.headerPending hu.pending hu.target hu.sender hu.head hlen) hu.consumed
        (hu.events.trans (List.append_nil _).symm)⟩
  · exact absurd habs hr
  · exact ⟨_, rejectMessage_account hu hrx hl (.inl ⟨hc, rfl⟩)⟩
  · exact ⟨_, rejectMessage_account hu hrx hl (.inr ⟨hc, hf, rfl⟩)⟩

/-! ### One iteration that delivers -/

/-- One frame was read off the head of the stream and delivered as `e`. -/
structure FrameRead (e : Event) (s v : State) : Prop where
  delivery : isDelivery e = true
  legal : eventLegal e = true
  pending : v.hdrPending = false
  head : unread s = deliveredBytes [e] ++ unread v
  consumed : Consumed (deliveredBytes [e]).length s v
  events : v.events = s.events ++ [e]

/-- The frame's bytes are the header taken and the message read (R60, R102). -/
theorem msgStep_ok_reads_frame {s u v : State} (hu : HeaderTaken s u) (h : msgStep u = .ok (v, .ok)) :
    ∃ e, FrameRead e s v := by
  obtain ⟨hg, -⟩ | ⟨p, c, f, rest, -, hrx, hl, ⟨rfl, rfl, -, rfl⟩ | ⟨-, habs, -⟩ | ⟨-, -, habs, -⟩⟩ :=
    msgStep_cases h
  · obtain ⟨habs, -⟩ | ⟨habs, -⟩ := msgGate_some hg <;> cases habs
  · have hbyte : BitVec.ofNat 8 p.length = u.hdrLength := by rw [hl, BitVec.ofNat_toNat, BitVec.setWidth_eq]
    have hmsg : Consumed (p.length + 2) u
        (emit (.deliver u.hdrTarget u.hdrSender u.hdrLength p) (afterMessage p u)) := .of_rx (by simp [hrx]) rfl rfl rfl
    have hk : 5 + (p.length + 2) =
        (deliveredBytes [.deliver u.hdrTarget u.hdrSender u.hdrLength p]).length := by
      simp [deliveredBytes, frameBytes, frameWith, headerBytes, trailerBytes]
      omega
    refine ⟨_, rfl, by simp [eventLegal, hu.target, hu.sender, hl], rfl, ?_, hk ▸ hu.consumed.trans hmsg, ?_⟩
    · rw [hu.head, hmsg.unread_eq, unread_message hrx]
      simp [deliveredBytes, frameBytes, frameWith, trailerBytes, hbyte]
    · exact congrArg (· ++ [_]) hu.events
  · cases habs
  · cases habs

/-- What arrives after the frame stays behind it. -/
theorem FrameRead.rxArrive {e : Event} {s v : State} (h : FrameRead e s v) (hv : LosslessSource v) :
    FrameRead e s (rxArrive v) where
  delivery := h.delivery
  legal := h.legal
  pending := (rxArrive_hdrPending v).trans h.pending
  head := by rw [hv.arrived.unread_eq, List.drop_zero, h.head]
  consumed := h.consumed.trans hv.arrived
  events := (rxArrive_events v).trans h.events

theorem deliveredBytes_cons (e : Event) (ds : List Event) :
    deliveredBytes (e :: ds) = deliveredBytes [e] ++ deliveredBytes ds := by
  cases e <;> simp [deliveredBytes]

/-- A tick that goes on after a frame accounts for that frame and then as the tick from there. -/
theorem TickAccount.cons {e : Event} {ds : List Event} {left : List Byte} {k : Nat} {s v t : State} {r : Result}
    (hf : FrameRead e s v) (h : TickAccount ds left k v t r) : TickAccount (e :: ds) left k s t r where
  deliveries := by rw [List.all_cons, hf.delivery, h.deliveries]; rfl
  legal := by rw [List.all_cons, hf.legal, h.legal]; rfl
  head := by rw [deliveredBytes_cons, hf.head, h.head, List.append_assoc]
  consumed := by
    rw [deliveredBytes_cons, List.length_append, Nat.add_assoc]
    exact hf.consumed.trans h.consumed
  events := by rw [h.events, hf.events, List.append_assoc s.events [e] ds]; rfl
  ending := h.ending

/-! ### The tick -/

theorem tickLoop_account {n : Nat} {s t : State} {r : Result} (h : tickLoop n s = .ok (t, r)) (hs : LosslessSource s)
    (hp : s.hdrPending = false) : ∃ ds left k, TickAccount ds left k s t r := by
  refine tickLoop_induct
    (P := fun s t r => LosslessSource s → s.hdrPending = false → ∃ ds left k, TickAccount ds left k s t r)
    ?hdrEnds ?msgEnds ?goesOn h hs hp
  case hdrEnds =>
    intro s s1 r h1 hr _ hp
    exact ⟨_, _, hdrStep_fails_account hp h1 hr⟩
  case msgEnds =>
    intro s s1 s2 r h1 h2 hr hs hp
    exact ⟨_, _, msgStep_fails_account (hdrStep_ok_takes_header hs hp h1) h2 hr⟩
  case goesOn =>
    intro s s1 s2 t r h1 h2 ih hs hp
    have hs2 : LosslessSource s2 := (hs.subStep (hdrStep_subStep h1)).rxArrive.subStep (msgStep_subStep h2)
    obtain ⟨e, he⟩ := msgStep_ok_reads_frame (hdrStep_ok_takes_header hs hp h1) h2
    obtain ⟨ds, left, k, hacc⟩ := ih hs2.rxArrive (he.rxArrive hs2).pending
    exact ⟨e :: ds, left, k, hacc.cons (he.rxArrive hs2)⟩

/-- What is left unread behind the frames delivered. -/
theorem TickAccount.rest {ds : List Event} {left : List Byte} {k : Nat} {s t : State} {r : Result}
    (h : TickAccount ds left k s t r) : unread t = left.drop k ∧ k ≤ left.length := by
  have hle := h.consumed.le
  rw [h.head, List.length_append] at hle
  exact ⟨by rw [h.consumed.unread_eq, h.head, List.drop_length_add_append], by omega⟩

/-- A rejected header breaks R92, and its error is that of the first condition broken in R91's order. -/
theorem decodeHeader_error_breaks {b0 b1 b2 b3 b4 : Byte} {e : DecodeError}
    (h : decodeHeader b0 b1 b2 b3 b4 = .error e) :
    ¬ (b0 = 0x01#8 ∧ b3 = 0x01#8 ∧ b1 ≤ 0x20#8 ∧ b2 ≤ 0x20#8) ∧
      rejection e = (if b0 ≠ 0x01#8 then Result.errStart else if b3 ≠ 0x01#8 then .errMarker
        else if 0x20#8 < b1 then .errTarget else .errSender) := by
  obtain ⟨rfl, h0⟩ | ⟨rfl, rfl, h3⟩ | ⟨rfl, rfl, rfl, h1⟩ | ⟨rfl, rfl, rfl, h1, h2⟩ := decodeHeader_error _ _ _ _ _ _ h
  · exact ⟨fun ⟨hstart, _⟩ => h0 hstart, (if_pos h0).symm⟩
  · exact ⟨fun ⟨_, halign, _⟩ => h3 halign, (if_pos h3).symm⟩
  · have hover : 0x20#8 < b1 := (legalAddr_false_iff b1).mp h1
    exact ⟨fun ⟨_, _, ht, _⟩ => BitVec.not_le.mpr hover ht, (if_pos hover).symm⟩
  · have hover : 0x20#8 < b2 := (legalAddr_false_iff b2).mp h2
    have hlegal : ¬ 0x20#8 < b1 := BitVec.not_lt.mpr ((legalAddr_iff b1).mp h1)
    exact ⟨fun ⟨_, _, _, hsd⟩ => BitVec.not_le.mpr hover hsd, (if_neg hlegal).symm⟩

/-- Settles O46: the loop's account, each iteration but the last adding one frame to it. -/
theorem tickDeliversFramesOfStream : Obligations.TickDeliversFramesOfStream := by
  intro s hp hs hd
  obtain ⟨t, hexec⟩ := exec_decodeTick_answers hs
  obtain ⟨u, r, hloop, rfl⟩ := finish_next hexec
  obtain ⟨ds, left, k, hacc⟩ := tickLoop_account hloop ⟨hs, hd⟩ hp
  obtain ⟨hrest, hk⟩ := hacc.rest
  refine ⟨_, ds, left, k, hexec, hacc.deliveries, hacc.legal, hacc.head, hrest, hk,
    hacc.consumed.rxPos_eq.trans (Nat.add_assoc ..).symm, ?_⟩
  have hev := hacc.events
  cases hacc.ending with
  | idle hpend hlen =>
    exact .inl ⟨rfl, hev.trans (List.append_nil _), .inl ⟨hpend, rfl, hlen⟩⟩
  | headerPending hpend ht hsd hleft hlen =>
    refine .inl ⟨rfl, hev.trans (List.append_nil _), .inr ⟨hpend, rfl, ?_, (legalAddr_iff _).mp ht,
      (legalAddr_iff _).mp hsd, hlen⟩⟩
    rw [hleft]
    rfl
  | badHeader hpend hleft hbad =>
    rw [diagOf_error (rejection_isError_of_decodeHeader hbad)] at hev
    exact .inr ⟨_, rfl, hev, hpend, .inl ⟨_, _, _, _, _, _, hleft, rfl, decodeHeader_error_breaks hbad⟩⟩
  | badMessage hpend ht hsd hleft hl hbad =>
    have herr : r.isError = true := by obtain ⟨-, rfl⟩ | ⟨-, -, rfl⟩ := hbad <;> rfl
    rw [diagOf_error herr] at hev
    exact .inr ⟨r, rfl, hev, hpend, .inr ⟨_, _, _, _, hleft, (legalAddr_iff _).mp ht, (legalAddr_iff _).mp hsd, hl,
      rfl, hbad⟩⟩

end Sys2Proof.Machine
end

section
/-! The checksum (40_checksum.md R80 to R83): it is the complement of a byte sum, so all its forms, what it detects and
what the two commands answer are facts about that sum. -/

namespace Sys2Proof.Machine

/-! ### The sum of the bytes -/

/-- The sum that R80's equivalent form complements: `s + t + L + p[0] + ... + p[L−1]`. -/
def cksumSum (s t : Byte) (p : List Byte) : Nat := s.toNat + t.toNat + p.length + byteSum p

theorem cksumSum_swap (s t : Byte) (p : List Byte) : cksumSum t s p = cksumSum s t p := by
  simp only [cksumSum]
  omega

theorem cksumWide_eq (s t : Byte) (p : List Byte) : cksumWide s t p = cksumSum s t p + 2 := by
  have hmarks : Config.startMark.toNat = 1 ∧ Config.alignMark.toNat = 1 := ⟨rfl, rfl⟩
  simp only [cksumWide, cksumSum]
  omega

theorem byteSum_eq_sum (p : List Byte) : byteSum p = (p.map BitVec.toNat).sum := by
  induction p with
  | nil => rfl
  | cons b p ih => rw [byteSum, ih, List.map_cons, List.sum_cons]

theorem byteSum_perm {p q : List Byte} (h : p.Perm q) : byteSum p = byteSum q := by
  rw [byteSum_eq_sum, byteSum_eq_sum, (h.map _).sum_eq]

/-- Writing one byte exchanges its value for the old one's in the sum. -/
theorem byteSum_set {p : List Byte} {i : Nat} (v : Byte) (h : i < p.length) :
    byteSum (p.set i v) + p[i].toNat = byteSum p + v.toNat := by
  induction p generalizing i with
  | nil => exact absurd h (Nat.not_lt_zero i)
  | cons b p ih =>
    cases i with
    | zero =>
      simp only [List.set_cons_zero, List.getElem_cons_zero, byteSum]
      omega
    | succ i =>
      have htail := ih (Nat.lt_of_succ_lt_succ h)
      simp only [List.set_cons_succ, List.getElem_cons_succ, byteSum]
      omega

/-- An 8-bit accumulator holds the sum's low byte. -/
theorem foldl_add_eq (p : List Byte) (a : Byte) : p.foldl (· + ·) a = a + BitVec.ofNat 8 (byteSum p) := by
  induction p generalizing a with
  | nil => simp [byteSum]
  | cons b p ih => rw [List.foldl_cons, ih, byteSum, BitVec.ofNat_add, BitVec.ofNat_toNat, BitVec.setWidth_eq,
      BitVec.add_assoc]

/-- The sum's low byte, added up in 8 bits. -/
theorem ofNat_cksumSum (s t : Byte) (p : List Byte) :
    BitVec.ofNat 8 (cksumSum s t p) = s + t + BitVec.ofNat 8 p.length + BitVec.ofNat 8 (byteSum p) := by
  simp only [cksumSum, BitVec.ofNat_add, BitVec.ofNat_toNat, BitVec.setWidth_eq]

/-! ### The checksum is the sum's complement (R80) -/

theorem cksum_toNat (s t : Byte) (p : List Byte) : (cksum s t p).toNat = 255 - cksumSum s t p % 256 := by
  rw [cksum, cksumWide_eq, BitVec.toNat_ofInt]
  omega

theorem cksum_eq_complement (s t : Byte) (p : List Byte) : cksum s t p = ~~~ BitVec.ofNat 8 (cksumSum s t p) := by
  apply BitVec.eq_of_toNat_eq
  rw [cksum_toNat, BitVec.toNat_not, BitVec.toNat_ofNat]

/-- Two checksums agree exactly when the sums do mod 256. -/
theorem cksum_eq_iff (s t s' t' : Byte) (p q : List Byte) :
    cksum s t p = cksum s' t' q ↔ cksumSum s t p % 256 = cksumSum s' t' q % 256 := by
  rw [← BitVec.toNat_inj, cksum_toNat, cksum_toNat]
  omega

theorem cksum_swap (s t : Byte) (p : List Byte) : cksum s t p = cksum t s p :=
  (cksum_eq_iff s t t s p p).mpr (by rw [cksumSum_swap])

theorem cksum_nil (s t : Byte) : cksum s t [] = ~~~ (s + t) := by
  rw [cksum_eq_complement, ofNat_cksumSum]
  simp [byteSum]

/-- The example of R81 and R82. -/
theorem cksum_rulesExample : cksum 0x02#8 0x01#8 [0x04#8] = 0xF7#8 := by decide

/-- Settles O15: every form is the complement of the same sum, whose total in R80 is two more. -/
theorem checksumForms : Obligations.ChecksumForms := by
  intro s t p _
  have hval := cksum_toNat s t p
  have hwide : cksumSum s t p + 2 = 0x01 + s.toNat + t.toNat + 0x01 + p.length + byteSum p := by
    simp only [cksumSum]
    omega
  rw [← hwide]
  refine ⟨by rw [cksum, cksumWide_eq], ?unreduced, ?int, cksum_eq_complement s t p, ?frame, cksum_swap s t p⟩
  case unreduced =>
    apply BitVec.eq_of_toNat_eq
    rw [hval, BitVec.toNat_ofInt]
    omega
  case int => omega
  case frame =>
    rw [hval]
    simp only [cksumSum]
    omega

/-- Settles O16: the fold adds the payload's sum to its start, and a start two higher makes the complement two less. -/
theorem checksumAccumulator : Obligations.ChecksumAccumulator := by
  intro s t p
  rw [foldl_add_eq, foldl_add_eq, cksum_eq_complement, ofNat_cksumSum]
  exact ⟨rfl, by bv_omega⟩

/-- Settles O17: checksums agree exactly when the sums do, and each change named moves the sum by less than 256 or not
at all. -/
theorem checksumDetection : Obligations.ChecksumDetection := by
  intro s t s' t' p q
  refine ⟨fun hlen => ?sums, fun hne heq => ?sender, fun hne heq => ?target, fun i v hi hne heq => ?byte,
    fun hperm => ?order, cksum_swap s t p⟩
  case sums =>
    rw [cksum_eq_iff]
    simp only [cksumSum]
    omega
  case sender =>
    rw [cksum_eq_iff] at heq
    simp only [cksumSum] at heq
    exact hne (by bv_omega)
  case target =>
    rw [cksum_eq_iff] at heq
    simp only [cksumSum] at heq
    exact hne (by bv_omega)
  case byte =>
    have hset := byteSum_set v hi
    rw [cksum_eq_iff] at heq
    simp only [cksumSum, List.length_set] at heq
    exact hne (by bv_omega)
  case order =>
    rw [cksum_eq_iff, cksumSum, cksumSum, hperm.length_eq, byteSum_perm hperm]

/-! ### The two commands (R81, R82) -/

theorem exec_cksumGen (s : State) :
    exec .cksumGen s = .next (setResult .ok (setCkResult (cksum s.argS s.argT (payload s)) s)) := by
  rw [exec, execCksumGen, withChecksum_ok, finish_ok]

theorem exec_cksumCheck (s : State) :
    exec .cksumCheck s = .next (setResult .ok (setChkMatch (matchFlag s.argC (cksum s.argS s.argT (payload s)))
      (setCkResult (cksum s.argS s.argT (payload s)) s))) := by
  rw [exec, execCksumCheck, withChecksum_ok, finish_ok]

/-- CKSUM_CHECK leaves `CHK_MATCH` at the outcome of the comparison, and at nothing else. -/
theorem exec_cksumCheck_chkMatch_iff (s : State) (m : Bool) :
    (∃ t, exec .cksumCheck s = .next t ∧ t.chkMatch = m) ↔
      decide (s.argC = cksum s.argS s.argT (payload s)) = m := by
  rw [exec_cksumCheck]
  constructor
  · rintro ⟨t, ht, rfl⟩
    cases ht
    rfl
  · exact fun hm => ⟨_, rfl, hm⟩

/-- Settles O18: the command's next state, and the checksum's value at R81's corners. -/
theorem cksumGenResult : Obligations.CksumGenResult := by
  refine ⟨rfl, fun s => ?_⟩
  have hempty (hl : s.argL = 0x00#8) : payload s = [] := by
    rw [← List.length_eq_zero_iff, payload_length, hl]
    rfl
  refine ⟨exec_cksumGen s, fun hl => ?empty, ?zero, fun hsum => ?allOnes, fun hl => ?full, ?rulesExample⟩
  case empty => rw [hempty hl, cksum_nil]
  case zero =>
    rintro ⟨hl, hs, ht⟩
    rw [hempty hl, cksum_nil, hs, ht]
    rfl
  case allOnes =>
    apply BitVec.eq_of_toNat_eq
    rw [cksum_toNat, cksumSum, payload_length, hsum]
    rfl
  case full =>
    rw [payload, payloadLength, hl]
    rfl
  case rulesExample =>
    rintro ⟨hs, ht, hp⟩
    rw [hs, ht, hp]
    exact ⟨rfl, cksum_rulesExample⟩

/-- Settles O19: the candidate matches exactly when it is the checksum, which the candidate register is no part of. -/
theorem cksumCheckResult : Obligations.CksumCheckResult := by
  refine ⟨rfl, fun s => ⟨exec_cksumCheck s, ⟨cksum s.argS s.argT (payload s), fun c => ?unique⟩, ?roundTrip,
    ?rulesExample⟩⟩
  case unique => exact (exec_cksumCheck_chkMatch_iff { s with argC := c } true).trans decide_eq_true_iff
  case roundTrip =>
    refine ⟨_, exists_and_left.mpr ⟨exec_cksumGen s, ?_⟩⟩
    exact (exec_cksumCheck_chkMatch_iff _ true).mpr (decide_eq_true rfl)
  case rulesExample =>
    rintro ⟨hs, ht, hp⟩
    have hsum : cksum s.argS s.argT (payload s) = 0xF7#8 := by rw [hs, ht, hp, cksum_rulesExample]
    have hcheck (c : Byte) :
        ∃ t, exec .cksumCheck { s with argC := c } = .next t ∧ t.chkMatch = decide (c = 0xF7#8) :=
      (exec_cksumCheck_chkMatch_iff { s with argC := c } _).mpr (by rw [← hsum]; rfl)
    exact ⟨hcheck 0xF7#8, hcheck 0xF8#8⟩

end Sys2Proof.Machine
end

section
/-! The two sub-steps as commands (41_rx_decoder.md R90 to R104): what TRY_READ_HEADER and TRY_READ_MESSAGE answer while
they wait, and once their bytes are there. -/

namespace Sys2Proof.Machine

/-- Popping a known front leaves what stood behind it. -/
theorem rxAdvance_front {s : State} {front rest : List Byte} (h : s.rx = front ++ rest) :
    rxAdvance front.length s = { s with rx := rest, rxPos := s.rxPos + front.length } := by
  rw [rxAdvance, h, List.drop_left]

/-! ### TRY_READ_HEADER (R91 to R95) -/

/-- HDR_STEP waits for its five bytes where none is pending, and under the literal order always (R91). -/
theorem hdrGate_needMore_iff (s : State) :
    hdrGate s = some .needMore ↔
      s.rx.length < 5 ∧ (s.hdrPending = false ∨ s.params.hdrAvailFirst = true) := by
  by_cases hlen : s.rx.length < 5 <;> cases hp : s.hdrPending <;> cases ho : s.params.hdrAvailFirst <;>
    simp [hdrGate, rxAvail, Config.hdrLen, hlen, hp, ho]

theorem exec_tryReadHeader_wait {s : State} {r : Result} (hg : hdrGate s = some r) :
    exec .tryReadHeader s = .next (setResult r s) :=
  congrArg finish (hdrStepOn_wait hg)

/-- Settles O33: HDR_STEP finds a header pending before it pops. -/
theorem headerReentry : Obligations.HeaderReentry := fun s hp hfive =>
  exec_tryReadHeader_wait ((hdrGate_ok_iff s).mpr ⟨hp, hfive⟩)

/-- Settles O34: HDR_STEP asks for its five bytes before it pops. -/
theorem headerDeferral : Obligations.HeaderDeferral := fun s hlen hwait =>
  exec_tryReadHeader_wait ((hdrGate_needMore_iff s).mpr ⟨hlen, hwait⟩)

/-- TRY_READ_HEADER with its bytes there is the verdict on those five. -/
theorem exec_tryReadHeader_go {s : State} {b0 b1 b2 b3 b4 : Byte} {rest : List Byte} (hp : s.hdrPending = false)
    (hr : s.rx = b0 :: b1 :: b2 :: b3 :: b4 :: rest) :
    exec .tryReadHeader s =
      finish (.ok (hdrVerdict b0 b1 b2 b3 b4 { s with rx := rest, rxPos := s.rxPos + 5 })) := by
  have hg : hdrGate s = none := (hdrGate_none_iff s).mpr ⟨hp, by simp [hr]⟩
  have hpop : rxAdvance 5 s = { s with rx := rest, rxPos := s.rxPos + 5 } :=
    rxAdvance_front (front := [b0, b1, b2, b3, b4]) hr
  rw [← hpop]
  exact congrArg finish (hdrStepOn_go (unit := none) hg (congrArg (List.take 5) hr))

/-- Settles O32: a header that breaks R92 is not decoded, and its error is that of R91's order. -/
theorem headerRejection : Obligations.HeaderRejection := by
  rintro s b0 b1 b2 b3 b4 rest hp hr hbad e rfl
  rw [exec_tryReadHeader_go hp hr, hdrVerdict]
  cases hd : decodeHeader b0 b1 b2 b3 b4 with
  | ok i =>
    obtain ⟨h0, h3, h1, h2, -⟩ := (decodeHeader_ok_iff ..).mp hd
    exact absurd ⟨h0, h3, (legalAddr_iff b1).mp h1, (legalAddr_iff b2).mp h2⟩ hbad
  | error e =>
    rw [← (decodeHeader_error_breaks hd).2]
    rfl

/-- Settles O31: a header that meets R92 is decoded as itself; one that does not is rejected, with none pending. -/
theorem headerAcceptance : Obligations.HeaderAcceptance := by
  refine fun s b0 b1 b2 b3 b4 rest hp hr => ⟨?accepted, ?onlyIf⟩
  case accepted =>
    rintro ⟨h0, h3, h1, h2⟩
    have hok : decodeHeader b0 b1 b2 b3 b4 = .ok (.frameHeader b1 b2 b4) :=
      (decodeHeader_ok_iff ..).mpr ⟨h0, h3, (legalAddr_iff b1).mpr h1, (legalAddr_iff b2).mpr h2, rfl⟩
    rw [exec_tryReadHeader_go hp hr, hdrVerdict, hok]
    rfl
  case onlyIf =>
    rintro ⟨t, ht, hpend⟩
    by_contra hbad
    cases ht.symm.trans (headerRejection s b0 b1 b2 b3 b4 rest hp hr hbad _ rfl)
    cases hp.symm.trans hpend

/-! ### TRY_READ_MESSAGE (R97 to R104) -/

theorem exec_tryReadMessage_wait {s : State} {r : Result} (hg : msgGate s = some r) :
    exec .tryReadMessage s = .next (setResult r s) :=
  congrArg finish (msgStepOn_wait hg)

theorem msgGate_noHeader {s : State} (hp : s.hdrPending = false) : msgGate s = some .noHeader := by
  simp [msgGate, hp]

theorem msgGate_short {s : State} (hp : s.hdrPending = true) (hlen : s.rx.length < s.hdrLength.toNat + 2) :
    msgGate s = some .needMore := by
  simp [msgGate, hp, rxAvail, messageNeed, pendingLength, Config.trailerLen, hlen]

/-- Settles O38: MSG_STEP asks for the whole message before it pops. -/
theorem messageDeferral : Obligations.MessageDeferral := fun _ hp hlen =>
  exec_tryReadMessage_wait (msgGate_short hp hlen)

theorem afterMessage_front {s : State} {p rest : List Byte} {c f : Byte} (hr : s.rx = p ++ c :: f :: rest) :
    afterMessage p s = { s with
      hdrPending := false, pbuf := bufFill s.pbuf 0 p, rx := rest, rxPos := s.rxPos + (p.length + 2) } := by
  have hfront : s.rx = (p ++ [c, f]) ++ rest := by rw [hr, List.append_assoc]; rfl
  have hlen : (p ++ [c, f]).length = p.length + 2 := List.length_append
  rw [afterMessage, ← hlen, rxAdvance_front (s := setPbuf (bufFill s.pbuf 0 p) s) hfront]
  rfl

/-- TRY_READ_MESSAGE with its bytes there is the verdict on the message. -/
theorem exec_tryReadMessage_go {s : State} {p rest : List Byte} {c f : Byte} (hp : s.hdrPending = true)
    (hr : s.rx = p ++ c :: f :: rest) (hl : p.length = s.hdrLength.toNat) :
    exec .tryReadMessage s = finish (.ok (msgVerdict p c f (afterMessage p s))) :=
  congrArg finish (msgStepOn_go (unit := none) hp hr hl rfl)

/-- Settles O35: the checksum is judged before the footer; the payload stays in `PBUF` after a delivery alone. -/
theorem messageJudgement : Obligations.MessageJudgement := by
  intro s p rest c f hp hr hl
  rw [exec_tryReadMessage_go hp hr hl]
  by_cases hc : c = cksum s.hdrSender s.hdrTarget p
  · by_cases hf : f = 0x04#8
    · refine ⟨bufFill s.pbuf 0 p, ?_, fun _ => ⟨fun i hi => ?_, fun i hi => ?_⟩⟩
      · rw [msgVerdict_of_valid (s := afterMessage p s) hc hf, afterMessage_front hr, if_neg (not_not.mpr hc),
          if_neg (not_not.mpr hf)]
        rfl
      · simpa using bufByte_bufFill_inside .pbuf s.pbuf 0 p i hi
      · exact bufByte_bufFill_outside .pbuf s.pbuf 0 p i (by omega)
    · refine ⟨bufForget (bufFill s.pbuf 0 p), ?_, fun hgood => absurd hgood.2 hf⟩
      rw [msgVerdict_of_footer_ne (s := afterMessage p s) hc hf, afterMessage_front hr, if_neg (not_not.mpr hc),
        if_pos hf]
      rfl
  · refine ⟨bufForget (bufFill s.pbuf 0 p), ?_, fun hgood => absurd hgood.1 hc⟩
    rw [msgVerdict_of_checksum_ne (s := afterMessage p s) hc, afterMessage_front hr, if_pos hc]
    rfl

end Sys2Proof.Machine
end

section
/-! The ends of a tick (41_rx_decoder.md R103, R112, R115, 60_exceptions.md R138): a tick under no endless supply
answers, and whichever tick answers has waited for bytes or met one receive error. -/

namespace Sys2Proof.Machine

/-- Settles O26: the other instructions answer from every state. -/
theorem everyInstructionAnswers : Obligations.EveryInstructionAnswers := by
  intro i s hs
  by_cases htick : i = .decodeTick
  · subst htick
    exact exec_decodeTick_answers (hs rfl)
  · exact exec_answers htick s

/-- The errors of R112: a header's four and a message's two. -/
def receiveErrors : List Result := [.errStart, .errMarker, .errTarget, .errSender, .errChecksum, .errFooter]

theorem rejection_mem_receiveErrors {b0 b1 b2 b3 b4 : Byte} {e : DecodeError}
    (h : decodeHeader b0 b1 b2 b3 b4 = .error e) : rejection e ∈ receiveErrors := by
  obtain ⟨rfl, -⟩ | ⟨rfl, -⟩ | ⟨rfl, -⟩ | ⟨rfl, -⟩ := decodeHeader_error _ _ _ _ _ _ h <;> decide

theorem hdrStep_fails_with {s t : State} {r : Result} (h : hdrStep s = .ok (t, r)) (hr : r ≠ .ok) :
    r = .needMore ∨ r ∈ receiveErrors := by
  obtain ⟨hg, -⟩ | ⟨_, _, _, _, _, _, -, -, ⟨-, rfl, -⟩ | ⟨e, hd, rfl, -⟩⟩ := hdrStep_cases h
  · obtain ⟨rfl, -⟩ | ⟨rfl, -⟩ := hdrGate_some hg
    · exact absurd rfl hr
    · exact .inl rfl
  · exact absurd rfl hr
  · exact .inr (rejection_mem_receiveErrors hd)

/-- HDR_STEP is OK where a header is pending from before, or where it accepts one (R92, R94). -/
theorem hdrStep_ok_cases {s t : State} (h : hdrStep s = .ok (t, .ok)) :
    (hdrGate s = some .ok ∧ t = s) ∨
      ∃ a sd l more, s.hdrPending = false ∧ s.rx = headerBytes a sd l ++ more ∧ legalAddr a = true ∧
        legalAddr sd = true ∧ t = loadHeader a sd l (rxAdvance 5 s) := by
  obtain hwait | ⟨b0, b1, b2, b3, b4, rest, hg, hr, ⟨hd, -, rfl⟩ | ⟨e, hd, habs, -⟩⟩ := hdrStep_cases h
  · exact .inl hwait
  · obtain ⟨rfl, rfl, ha, hsd, -⟩ := (decodeHeader_ok_iff ..).mp hd
    exact .inr ⟨b1, b2, b4, rest, ((hdrGate_none_iff s).mp hg).1, hr, ha, hsd, rfl⟩
  · have herr := rejection_mem_receiveErrors hd
    rw [← habs] at herr
    exact absurd herr (by decide)

/-- MSG_STEP is OK where it delivers a valid message, and nowhere else (R102). -/
theorem msgStep_ok_cases {s t : State} (h : msgStep s = .ok (t, .ok)) :
    ∃ p more, s.hdrPending = true ∧ p.length = s.hdrLength.toNat ∧
      s.rx = p ++ trailerBytes (cksum s.hdrSender s.hdrTarget p) ++ more ∧
      t = emit (.deliver s.hdrTarget s.hdrSender s.hdrLength p) (afterMessage p s) := by
  obtain ⟨hg, -⟩ | ⟨p, c, f, rest, hg, hr, hl, ⟨rfl, rfl, -, rfl⟩ | ⟨-, habs, -⟩ | ⟨-, -, habs, -⟩⟩ := msgStep_cases h
  · obtain ⟨habs, -⟩ | ⟨habs, -⟩ := msgGate_some hg <;> cases habs
  · exact ⟨p, rest, ((msgGate_none_iff s).mp hg).1, hl, by simp [hr, trailerBytes], rfl⟩
  · cases habs
  · cases habs

/-- After an HDR_STEP that is OK a header is pending. -/
theorem hdrStep_ok_pending {s t : State} (h : hdrStep s = .ok (t, .ok)) : t.hdrPending = true := by
  obtain ⟨hg, rfl⟩ | ⟨_, _, _, _, -, -, -, -, rfl⟩ := hdrStep_ok_cases h
  · exact ((hdrGate_ok_iff t).mp hg).1
  · rfl

/-- With a header pending MSG_STEP does not miss one (R97, R103). -/
theorem msgStep_fails_with {s t : State} {r : Result} (hp : s.hdrPending = true) (h : msgStep s = .ok (t, r))
    (hr : r ≠ .ok) : r = .needMore ∨ r ∈ receiveErrors := by
  obtain ⟨hg, -⟩ | ⟨_, _, _, _, -, -, -, ⟨-, -, rfl, -⟩ | ⟨-, rfl, -⟩ | ⟨-, -, rfl, -⟩⟩ := msgStep_cases h
  · obtain ⟨-, hnone⟩ | ⟨rfl, -⟩ := msgGate_some hg
    · cases hp.symm.trans hnone
    · exact .inl rfl
  · exact absurd rfl hr
  · exact .inr (by decide)
  · exact .inr (by decide)

theorem tickLoop_result {n : Nat} {s t : State} {r : Result} (h : tickLoop n s = .ok (t, r)) :
    r = .needMore ∨ r ∈ receiveErrors := by
  refine tickLoop_induct (P := fun _ _ r => r = .needMore ∨ r ∈ receiveErrors) ?hdrEnds ?msgEnds ?goesOn h
  case hdrEnds => exact fun _ _ _ hhdr hr => hdrStep_fails_with hhdr hr
  case msgEnds =>
    exact fun _ _ _ _ hhdr hmsg hr =>
      msgStep_fails_with ((rxArrive_hdrPending _).trans (hdrStep_ok_pending hhdr)) hmsg hr
  case goesOn => exact fun _ _ _ _ _ _ _ hrest => hrest

theorem isError_of_mem_receiveErrors : ∀ {r : Result}, r ∈ receiveErrors → r.isError = true := by
  decide

/-- A tick that answers ends with one of its results, and reports its deliveries and that result (R115). -/
theorem exec_decodeTick_reported {s t : State} (h : exec .decodeTick s = .next t) :
    ∃ r ds, (r = .needMore ∨ r ∈ receiveErrors) ∧ t.lastResult = resultCode r ∧ ds.all isDelivery = true ∧
      t.events = s.events ++ ds ++ diagOf r := by
  obtain ⟨u, r, hloop, rfl⟩ := finish_next h
  obtain ⟨ds, hds⟩ := (tickLoop_run hloop).reported
  exact ⟨r, ds, tickLoop_result hloop, rfl, hds.deliveries, hds.events_eq⟩

/-- Settles O42: the loop ends by R112's bound, and its result decides whether a Diag follows the deliveries. -/
theorem decodeTickEnds : Obligations.DecodeTickEnds := by
  refine ⟨fun s hs => exec_decodeTick_answers hs, fun s t h => ?_⟩
  obtain ⟨r, ds, hr, hlast, hdel, hev⟩ := exec_decodeTick_reported h
  refine ⟨ds, hdel, ?_⟩
  obtain rfl | herr := hr
  · exact .inl ⟨hlast, hev.trans (List.append_nil _)⟩
  · rw [diagOf_error (isError_of_mem_receiveErrors herr)] at hev
    exact .inr ⟨r, herr, hlast, hev⟩

/-- Settles O37: NO_HEADER is none of a tick's results, and no two results have one code. -/
theorem messageWithoutHeader : Obligations.MessageWithoutHeader := by
  refine ⟨fun s hp => exec_tryReadMessage_wait (msgGate_noHeader hp), fun s t h hcode => ?_⟩
  obtain ⟨r, -, hr, hlast, -, -⟩ := exec_decodeTick_reported h
  obtain rfl : r = .noHeader := resultCode_injective (hlast.symm.trans hcode)
  exact absurd hr (by decide)

end Sys2Proof.Machine
end

section
/-! The loop of a tick (41_rx_decoder.md R111, R112, 70_reset_and_hazards.md R164) and its limit. An iteration that goes
on takes two bytes of those there at the start, or leaves RX_SOURCE holding nothing but its endless supply. What a tick
does from there on depends on how far that supply is turned alone, so a tick that ends comes to no turn of it twice. -/

namespace Sys2Proof.Machine

/-! ### One iteration -/

/-- One iteration of the loop from `s` delivers a frame, and the next starts from `v` (R111). -/
def Iterates (s v : State) : Prop :=
  ∃ s1 s2, hdrStep s = .ok (s1, .ok) ∧ msgStep (rxArrive s1) = .ok (s2, .ok) ∧ v = rxArrive s2

theorem Iterates.tickLoop_succ {s v : State} (h : Iterates s v) (n : Nat) : tickLoop (n + 1) s = tickLoop n v := by
  obtain ⟨s1, s2, h1, h2, rfl⟩ := h
  rw [Machine.tickLoop_succ n h1 h2, if_neg (by simp), if_neg (by simp)]

theorem tickLoop_hdr_ends {s s1 : State} {r : Result} (n : Nat) (h1 : hdrStep s = .ok (s1, r)) (hr : r ≠ .ok) :
    tickLoop (n + 1) s = .ok (s1, r) := by
  obtain ⟨s2, r2, h2⟩ := msgStep_answers (rxArrive s1)
  rw [tickLoop_succ n h1 h2, if_pos hr]

theorem tickLoop_msg_ends {s s1 s2 : State} {r : Result} (n : Nat) (h1 : hdrStep s = .ok (s1, .ok))
    (h2 : msgStep (rxArrive s1) = .ok (s2, r)) (hr : r ≠ .ok) : tickLoop (n + 1) s = .ok (s2, r) := by
  rw [tickLoop_succ n h1 h2, if_neg (by simp), if_pos hr]

/-- An iteration ends the tick, however many more the loop may make, or it delivers. -/
theorem ends_or_iterates (s : State) : (∃ x, ∀ n, tickLoop (n + 1) s = .ok x) ∨ ∃ v, Iterates s v := by
  obtain ⟨s1, r1, h1⟩ := hdrStep_answers s
  obtain ⟨s2, r2, h2⟩ := msgStep_answers (rxArrive s1)
  by_cases hr1 : r1 = .ok
  · subst hr1
    by_cases hr2 : r2 = .ok
    · subst hr2
      exact .inr ⟨_, s1, s2, h1, h2, rfl⟩
    · exact .inl ⟨_, fun n => tickLoop_msg_ends n h1 h2 hr2⟩
  · exact .inl ⟨_, fun n => tickLoop_hdr_ends n h1 hr1⟩

/-- More iterations allowed do not change a tick that has ended. -/
theorem tickLoop_mono {m n : Nat} {s : State} {x : State × Result} (h : tickLoop m s = .ok x) (hmn : m ≤ n) :
    tickLoop n s = .ok x := by
  induction m generalizing s n with
  | zero => cases h
  | succ m ih =>
    obtain ⟨n, rfl⟩ : ∃ k, n = k + 1 := ⟨n - 1, by omega⟩
    obtain ⟨y, hy⟩ | ⟨v, hv⟩ := ends_or_iterates s
    · rw [hy, ← hy m, h]
    · rw [hv.tickLoop_succ] at h ⊢
      exact ih h (by omega)

/-! ### What decides how a tick goes on -/

/-- Two states with no batch to come that a tick reads alike: the header registers count only while one is pending. -/
structure ReadAlike (s s' : State) : Prop where
  pending : s.hdrPending = s'.hdrPending
  header : s.hdrPending = true →
    s.hdrTarget = s'.hdrTarget ∧ s.hdrSender = s'.hdrSender ∧ s.hdrLength = s'.hdrLength
  rx : s.rx = s'.rx
  params : s.params = s'.params
  supply : s.rxSupply = s'.rxSupply
  during : s.rxDuring = []
  during' : s'.rxDuring = []

namespace ReadAlike

variable {s s' t : State}

theorem symm (h : ReadAlike s s') : ReadAlike s' s where
  pending := h.pending.symm
  header hp := by
    obtain ⟨ht, hsd, hl⟩ := h.header (h.pending.trans hp)
    exact ⟨ht.symm, hsd.symm, hl.symm⟩
  rx := h.rx.symm
  params := h.params.symm
  supply := h.supply.symm
  during := h.during'
  during' := h.during

theorem checkNeed_eq (h : ReadAlike s s') : checkNeed s = checkNeed s' := by
  unfold checkNeed
  rw [← h.pending]
  cases hp : s.hdrPending with
  | false => rfl
  | true =>
    obtain ⟨-, -, hl⟩ := h.header hp
    simp [messageNeed, pendingLength, hl]

theorem rxDraw (h : ReadAlike s s') (n : Nat) : ReadAlike (rxDraw n s) (rxDraw n s') := by
  induction n generalizing s s' with
  | zero => exact h
  | succ n ih =>
    have hfull : rxFull s' = rxFull s := by simp [rxFull, h.rx, h.params]
    cases hs : s.rxSupply with
    | nil =>
      rw [rxDraw_none hs, rxDraw_none (h.supply.symm.trans hs)]
      exact h
    | cons b bs =>
      simp only [Machine.rxDraw, hs, h.supply.symm.trans hs, hfull]
      split
      · exact h
      · exact ih { h with rx := by rw [h.rx], supply := rfl }

theorem rxArrive (h : ReadAlike s s') : ReadAlike (rxArrive s) (rxArrive s') := by
  rw [rxArrive_draw h.during, rxArrive_draw h.during', ← h.checkNeed_eq, rxAvail, rxAvail, ← h.rx]
  exact h.rxDraw _

theorem hdrStep_ok (h : ReadAlike s s') (hstep : hdrStep s = .ok (t, .ok)) :
    ∃ t', hdrStep s' = .ok (t', .ok) ∧ ReadAlike t t' := by
  obtain ⟨hg, rfl⟩ | ⟨a, sd, l, more, hp, hr, ha, hsd, rfl⟩ := hdrStep_ok_cases hstep
  · refine ⟨s', hdrStepOn_wait ((hdrGate_ok_iff s').mpr ?_), h⟩
    rw [← h.pending, ← h.params, ← h.rx]
    exact (hdrGate_ok_iff t).mp hg
  · exact ⟨_, hdrStep_accepts (h.pending ▸ hp) (h.rx ▸ hr) ha hsd,
      { h with pending := rfl, header := fun _ => ⟨rfl, rfl, rfl⟩, rx := congrArg (List.drop 5) h.rx }⟩

theorem msgStep_ok (h : ReadAlike s s') (hstep : msgStep s = .ok (t, .ok)) :
    ∃ t', msgStep s' = .ok (t', .ok) ∧ ReadAlike t t' := by
  obtain ⟨p, more, hp, hl, hr, rfl⟩ := msgStep_ok_cases hstep
  obtain ⟨ht, hsd, hlen⟩ := h.header hp
  rw [h.rx, ht, hsd] at hr
  rw [hlen] at hl
  exact ⟨_, msgStep_delivers (h.pending ▸ hp) hr hl,
    { h with pending := rfl, header := nofun, rx := congrArg (List.drop (p.length + 2)) h.rx }⟩

theorem iterates {v : State} (h : ReadAlike s s') (hv : Iterates s v) : ∃ v', Iterates s' v' ∧ ReadAlike v v' := by
  obtain ⟨s1, s2, h1, h2, rfl⟩ := hv
  obtain ⟨s1', h1', halike1⟩ := h.hdrStep_ok h1
  obtain ⟨s2', h2', halike2⟩ := halike1.rxArrive.msgStep_ok h2
  exact ⟨_, ⟨s1', s2', h1', h2', rfl⟩, halike2.rxArrive⟩

/-- Of two such states, ticks end within the same numbers of iterations. -/
theorem tickLoop_ends {n : Nat} (h : ReadAlike s s') (hend : ∃ x, tickLoop n s = .ok x) :
    ∃ x, tickLoop n s' = .ok x := by
  induction n generalizing s s' with
  | zero =>
    obtain ⟨x, hx⟩ := hend
    cases hx
  | succ n ih =>
    obtain ⟨x, hx⟩ | ⟨v', hv'⟩ := ends_or_iterates s'
    · exact ⟨x, hx n⟩
    · obtain ⟨v, hv, halike⟩ := h.symm.iterates hv'
      rw [hv.tickLoop_succ] at hend
      rw [hv'.tickLoop_succ]
      exact ih halike.symm hend

end ReadAlike

/-- The tick from `s` ends, after exactly `n` frames. -/
def EndsAfter (n : Nat) (s : State) : Prop := ∀ k, (∃ x, tickLoop k s = .ok x) ↔ n < k

theorem EndsAfter.unique {m n : Nat} {s : State} (hm : EndsAfter m s) (hn : EndsAfter n s) : m = n := by
  have hmn := (hm (n + 1)).symm.trans (hn (n + 1))
  have hnm := (hm (m + 1)).symm.trans (hn (m + 1))
  omega

theorem Iterates.endsAfter_succ_iff {n : Nat} {s v : State} (h : Iterates s v) :
    EndsAfter (n + 1) s ↔ EndsAfter n v := by
  refine ⟨fun hs k => ?_, fun hv k => ?_⟩
  · rw [← h.tickLoop_succ, hs (k + 1), Nat.succ_lt_succ_iff]
  · cases k with
    | zero => exact iff_of_false nofun (by omega)
    | succ k => rw [h.tickLoop_succ, hv k, Nat.succ_lt_succ_iff]

theorem endsAfter_of_tickLoop {n : Nat} {s : State} {x : State × Result} (h : tickLoop n s = .ok x) :
    ∃ m, EndsAfter m s := by
  induction n generalizing s with
  | zero => cases h
  | succ n ih =>
    obtain ⟨y, hy⟩ | ⟨v, hv⟩ := ends_or_iterates s
    · refine ⟨0, fun k => ?_⟩
      cases k with
      | zero => exact iff_of_false nofun (by omega)
      | succ k => exact iff_of_true ⟨y, hy k⟩ (by omega)
    · rw [hv.tickLoop_succ] at h
      obtain ⟨m, hm⟩ := ih h
      exact ⟨m + 1, hv.endsAfter_succ_iff.mpr hm⟩

theorem ReadAlike.endsAfter {n : Nat} {s s' : State} (h : ReadAlike s s') (hs : EndsAfter n s) : EndsAfter n s' :=
  fun k => ⟨fun hend => (hs k).mp (h.symm.tickLoop_ends hend), fun hlt => h.tickLoop_ends ((hs k).mpr hlt)⟩

/-! ### Where only the endless supply is left -/

/-- RX_SOURCE holds no byte that no check has asked for yet, and no batch is to come. -/
structure NoSurplus (s : State) : Prop where
  rx : s.rx.length ≤ checkNeed s
  during : s.rxDuring = []

/-- Nothing is left to read but the endless supply `supply`, turned by some number of bytes. -/
structure SupplyOnly (params : Config.Params) (supply : List Byte) (s : State) : Prop where
  pending : s.hdrPending = false
  rx : s.rx = []
  during : s.rxDuring = []
  params_eq : s.params = params
  turned : s.rxSupply ~r supply

theorem checkNeed_rxArrive (s : State) : checkNeed (rxArrive s) = checkNeed s := by
  simp [checkNeed, messageNeed, pendingLength]

theorem rxArrive_turned (s : State) : (rxArrive s).rxSupply ~r s.rxSupply := by
  cases hd : s.rxDuring with
  | nil =>
    obtain ⟨held, left, hdraw, -, -, k, rfl⟩ := rxDraw_cases (checkNeed s - rxAvail s) s
    rw [rxArrive_draw hd, hdraw]
    exact List.IsRotated.forall s.rxSupply k
  | cons batch more =>
    rw [rxArrive_batch hd, rxAppend_rxSupply]

/-- With no batch to come, an arrival adds no more than the next check asks for. -/
theorem rxArrive_rx_length {s : State} (hd : s.rxDuring = []) :
    (rxArrive s).rx.length ≤ max s.rx.length (checkNeed s) ∧ (rxArrive s).rxDuring = [] := by
  obtain ⟨held, left, hdraw, -, hle, -⟩ := rxDraw_cases (checkNeed s - rxAvail s) s
  rw [rxArrive_draw hd, hdraw]
  rw [rxAvail] at hle
  exact ⟨by show held.length ≤ _; omega, hd⟩

theorem NoSurplus.rxArrive {s : State} (h : NoSurplus s) : NoSurplus (rxArrive s) := by
  obtain ⟨hle, hd⟩ := rxArrive_rx_length h.during
  have hrx := h.rx
  exact ⟨by rw [checkNeed_rxArrive]; omega, hd⟩

/-- An arrival draws on the endless supply only where nothing else is left; otherwise it makes no bytes. -/
theorem rxArrive_noSurplus_or_unread_le (s : State) :
    NoSurplus (rxArrive s) ∨ (unread (rxArrive s)).length ≤ (unread s).length := by
  cases hd : s.rxDuring with
  | nil =>
    by_cases hlen : s.rx.length ≤ checkNeed s
    · exact .inl (NoSurplus.rxArrive ⟨hlen, hd⟩)
    · obtain ⟨hle, hd'⟩ := rxArrive_rx_length hd
      rw [unread_length, unread_length, hd, hd']
      exact .inr (by omega)
  | cons batch more =>
    obtain ⟨held, count, happ, -, hle⟩ := rxAppend_cases batch { s with rxDuring := more }
    rw [rxArrive_batch hd, happ, unread_length, unread_length, hd]
    simp only [List.flatten_cons, List.length_append] at hle ⊢
    exact .inr (by omega)

theorem hdrStep_ok_noSurplus {s t : State} (hs : NoSurplus s) (h : hdrStep s = .ok (t, .ok)) : NoSurplus t := by
  obtain ⟨-, rfl⟩ | ⟨_, _, _, _, hp, -, -, -, rfl⟩ := hdrStep_ok_cases h
  · exact hs
  · have hlen : s.rx.length ≤ 5 := by simpa [checkNeed, hp, Config.hdrLen] using hs.rx
    have hrx : s.rx.drop 5 = [] := List.drop_eq_nil_of_le hlen
    exact ⟨by simp [hrx], hs.during⟩

/-- A delivery leaves nothing unread of what its check asked for. -/
theorem msgStep_ok_supplyOnly {s t : State} (hs : NoSurplus s) (h : msgStep s = .ok (t, .ok)) :
    SupplyOnly s.params s.rxSupply t := by
  obtain ⟨p, more, hp, hl, -, rfl⟩ := msgStep_ok_cases h
  have hlen : s.rx.length ≤ p.length + 2 := by
    simpa [checkNeed, hp, messageNeed, pendingLength, Config.trailerLen, hl] using hs.rx
  exact ⟨rfl, List.drop_eq_nil_of_le hlen, hs.during, rfl, .refl _⟩

/-! ### One iteration and what is left to read -/

theorem SupplyOnly.noSurplus {ps : Config.Params} {supply : List Byte} {u : State} (h : SupplyOnly ps supply u) :
    NoSurplus u := ⟨by simp [h.rx], h.during⟩

/-- A delivery from what was drawn for it alone. -/
theorem msgStep_ok_supplyOnly_of_hdrStep {s s1 s2 : State} (h1 : hdrStep s = .ok (s1, .ok))
    (hns : NoSurplus (rxArrive s1)) (h2 : msgStep (rxArrive s1) = .ok (s2, .ok)) :
    SupplyOnly s.params s.rxSupply s2 := by
  have hsub := hdrStep_subStep h1
  have hs2 := msgStep_ok_supplyOnly hns h2
  exact { hs2 with
    params_eq := by rw [hs2.params_eq, rxArrive_params, hsub.params_eq]
    turned := hsub.rxSupply_eq ▸ hs2.turned.trans (rxArrive_turned s1) }

theorem Iterates.supplyOnly {s v : State} (h : Iterates s v) (hs : NoSurplus s) :
    ∃ u, SupplyOnly s.params s.rxSupply u ∧ v = rxArrive u := by
  obtain ⟨s1, s2, h1, h2, rfl⟩ := h
  exact ⟨s2, msgStep_ok_supplyOnly_of_hdrStep h1 (hdrStep_ok_noSurplus hs h1).rxArrive h2, rfl⟩

theorem Iterates.turned {s v : State} (h : Iterates s v) : v.rxSupply ~r s.rxSupply := by
  obtain ⟨s1, s2, h1, h2, rfl⟩ := h
  have hturn := rxArrive_turned s2
  rw [(msgStep_subStep h2).rxSupply_eq] at hturn
  rw [← (hdrStep_subStep h1).rxSupply_eq]
  exact hturn.trans (rxArrive_turned s1)

/-- What an iteration leaves to read: the endless supply alone; two bytes less than there were; or what it drew for the
next header, two bytes having been there. -/
theorem Iterates.cases_unread {s v : State} (h : Iterates s v) :
    (∃ u, SupplyOnly s.params s.rxSupply u ∧ v = rxArrive u) ∨
      (unread v).length + 2 ≤ (unread s).length ∨ (NoSurplus v ∧ 2 ≤ (unread s).length) := by
  obtain ⟨s1, s2, h1, h2, rfl⟩ := h
  obtain hns | hle1 := rxArrive_noSurplus_or_unread_le s1
  · exact .inl ⟨s2, msgStep_ok_supplyOnly_of_hdrStep h1 hns h2, rfl⟩
  · have htwo : (unread s2).length + 2 ≤ (unread s).length :=
      (msgStep_ok_unread_length h2).trans (hle1.trans (hdrStep_subStep h1).unread_length_le)
    obtain hns | hle2 := rxArrive_noSurplus_or_unread_le s2
    · exact .inr (.inr ⟨hns, by omega⟩)
    · exact .inr (.inl (by omega))

/-! ### The limit is exact -/

theorem EndsAfter.iterates {n : Nat} {s : State} (h : EndsAfter (n + 1) s) : ∃ v, Iterates s v ∧ EndsAfter n v := by
  obtain ⟨x, hx⟩ | ⟨v, hv⟩ := ends_or_iterates s
  · have habs := (h 1).mp ⟨x, hx 0⟩
    omega
  · exact ⟨v, hv, hv.endsAfter_succ_iff.mp h⟩

/-- From a state with the endless supply alone, a tick that ends after `n` frames comes to such a state before each of
them and at its end. -/
theorem SupplyOnly.visits {ps : Config.Params} {supply : List Byte} {n : Nat} {u : State} (hu : SupplyOnly ps supply u)
    (h : EndsAfter n (rxArrive u)) : ∀ j ≤ n, ∃ w, SupplyOnly ps supply w ∧ EndsAfter j (rxArrive w) := by
  induction n generalizing u with
  | zero =>
    intro j hj
    obtain rfl : j = 0 := by omega
    exact ⟨u, hu, h⟩
  | succ n ih =>
    intro j hj
    obtain rfl | hle : j = n + 1 ∨ j ≤ n := by omega
    · exact ⟨u, hu, h⟩
    · obtain ⟨v, hv, hend⟩ := h.iterates
      obtain ⟨u', hu', rfl⟩ := hv.supplyOnly hu.noSurplus.rxArrive
      have hnext : SupplyOnly ps supply u' := { hu' with
        params_eq := by rw [hu'.params_eq, rxArrive_params, hu.params_eq]
        turned := (hu'.turned.trans (rxArrive_turned u)).trans hu.turned }
      exact ih hnext hend j hle

theorem SupplyOnly.readAlike {ps : Config.Params} {supply : List Byte} {u w : State} (hu : SupplyOnly ps supply u)
    (hw : SupplyOnly ps supply w) (heq : u.rxSupply = w.rxSupply) : ReadAlike u w where
  pending := hu.pending.trans hw.pending.symm
  header hp := by cases hu.pending.symm.trans hp
  rx := hu.rx.trans hw.rx.symm
  params := hu.params_eq.trans hw.params_eq.symm
  supply := heq
  during := hu.during
  during' := hw.during

/-- The supply has as many turns as bytes, and a tick that ends meets none of them twice. -/
theorem SupplyOnly.endsAfter_lt {ps : Config.Params} {supply : List Byte} {n : Nat} {u : State}
    (hu : SupplyOnly ps supply u) (hne : supply ≠ []) (h : EndsAfter n (rxArrive u)) : n < supply.length := by
  have : Nonempty State := ⟨u⟩
  choose! w hw hend using hu.visits h
  have hmaps : Set.MapsTo (fun j => (w j).rxSupply) (Finset.range (n + 1)) supply.cyclicPermutations.toFinset := by
    intro j hj
    have hj' : j ≤ n := by simpa [Nat.lt_succ_iff] using hj
    simpa [List.mem_cyclicPermutations_iff] using (hw j hj').turned
  have hinj : Set.InjOn (fun j => (w j).rxSupply) (Finset.range (n + 1)) := by
    intro i hi j hj heq
    have hi' : i ≤ n := by simpa [Nat.lt_succ_iff] using hi
    have hj' : j ≤ n := by simpa [Nat.lt_succ_iff] using hj
    have halike := ((hw i hi').readAlike (hw j hj') heq).rxArrive
    exact (halike.endsAfter (hend i hi')).unique (hend j hj')
  calc n < (Finset.range (n + 1)).card := by simp
    _ ≤ supply.cyclicPermutations.toFinset.card := Finset.card_le_card_of_injOn _ hmaps hinj
    _ ≤ supply.cyclicPermutations.length := List.toFinset_card_le _
    _ = supply.length := List.length_cyclicPermutations_of_ne_nil supply hne

theorem NoSurplus.endsAfter_le {n : Nat} {s : State} (hs : NoSurplus s) (hne : s.rxSupply ≠ []) (h : EndsAfter n s) :
    n ≤ s.rxSupply.length := by
  cases n with
  | zero => exact Nat.zero_le _
  | succ n =>
    obtain ⟨v, hv, hend⟩ := h.iterates
    obtain ⟨u, hu, rfl⟩ := hv.supplyOnly hs
    exact hu.endsAfter_lt hne hend

theorem tickLimit_eq (s : State) : tickLimit s = (unread s).length / 2 + 1 + s.rxSupply.length := by
  rw [tickLimit, tickBound, unread_length]

/-- A tick that ends does so within its limit (R112, R164). -/
theorem EndsAfter.lt_tickLimit {n : Nat} {s : State} (h : EndsAfter n s) : n < tickLimit s := by
  by_cases hs : s.rxSupply = []
  · obtain ⟨t, r, hloop⟩ := tickLoop_answers (n := tickLimit s) hs (by rw [tickLimit_eq]; omega)
    exact (h _).mp ⟨_, hloop⟩
  · induction n generalizing s with
    | zero =>
      rw [tickLimit_eq]
      omega
    | succ n ih =>
      obtain ⟨v, hv, hend⟩ := h.iterates
      have hlen : v.rxSupply.length = s.rxSupply.length := hv.turned.perm.length_eq
      have hvne : v.rxSupply ≠ [] := fun hnil => hs (by simpa [hnil] using hlen.symm)
      rw [tickLimit_eq]
      obtain ⟨u, hu, rfl⟩ | hless | ⟨hns, htwo⟩ := hv.cases_unread
      · have hlt := hu.endsAfter_lt hs hend
        omega
      · have hlt := ih hend hvne
        rw [tickLimit_eq] at hlt
        omega
      · have hle := hns.endsAfter_le hvne hend
        omega

/-- Whatever the loop comes to, it comes to within the limit. -/
theorem tickLoop_tickLimit {n : Nat} {s : State} {x : State × Result} (h : tickLoop n s = .ok x) :
    tickLoop (tickLimit s) s = .ok x := by
  obtain ⟨m, hm⟩ := endsAfter_of_tickLoop h
  obtain ⟨y, hy⟩ := (hm (tickLimit s)).mpr hm.lt_tickLimit
  obtain hle | hle := Nat.le_total n (tickLimit s)
  · exact tickLoop_mono h hle
  · rw [hy, ← tickLoop_mono hy hle, h]

/-! ### DECODE_TICK -/

theorem exec_decodeTick_of_tickLoop {n : Nat} {s t : State} {r : Result} (h : tickLoop n s = .ok (t, r)) :
    exec .decodeTick s = .next (setResult r t) :=
  congrArg finish (tickLoop_tickLimit h)

/-- A tick stops exactly where its loop ends under no number of iterations (R164). -/
theorem exec_decodeTick_unfinished_iff (s : State) :
    exec .decodeTick s = .fault .tickUnfinished ↔ ∀ n, tickLoop n s = .error .tickUnfinished := by
  constructor
  · intro h n
    cases hloop : tickLoop n s with
    | ok x => cases h.symm.trans (exec_decodeTick_of_tickLoop hloop)
    | error f => rw [tickLoop_error hloop]
  · exact fun h => congrArg finish (h (tickLimit s))

/-- After a delivery a tick is the tick from there, to its end or without one (R111). -/
theorem Iterates.exec_decodeTick {s v : State} (h : Iterates s v) : exec .decodeTick s = exec .decodeTick v := by
  obtain ⟨t, ht⟩ | hv := exec_decodeTick_next_or_unfinished v
  · obtain ⟨u, r, hloop, rfl⟩ := finish_next ht
    rw [← h.tickLoop_succ] at hloop
    rw [ht, exec_decodeTick_of_tickLoop hloop]
  · rw [hv, exec_decodeTick_unfinished_iff]
    intro n
    cases n with
    | zero => rfl
    | succ n => rw [h.tickLoop_succ, (exec_decodeTick_unfinished_iff v).mp hv]

/-- Settles O41: the two sub-steps of one iteration, and the limit that no longer counts after it. -/
theorem decodeTickLoops : Obligations.DecodeTickLoops := by
  refine ⟨rfl, fun s => ?_⟩
  obtain ⟨s1, r1, h1⟩ := hdrStep_answers s
  refine ⟨s1, r1, h1, fun hr => exec_decodeTick_of_tickLoop (tickLoop_hdr_ends 0 h1 hr), ?_⟩
  rintro rfl
  obtain ⟨s2, r2, h2⟩ := msgStep_answers (rxArrive s1)
  refine ⟨s2, r2, h2, fun hr => exec_decodeTick_of_tickLoop (tickLoop_msg_ends 0 h1 h2 hr), ?_⟩
  rintro rfl
  exact Iterates.exec_decodeTick ⟨s1, s2, h1, h2, rfl⟩

/-- Settles O43: the loop's only fault is that it ran out of iterations, and its limit is exact. -/
theorem tickStopsExactlyWhenEndless : Obligations.TickStopsExactlyWhenEndless := by
  intro s
  have hstops := exec_decodeTick_next_or_unfinished s
  refine ⟨fun f h => ?onlyFault, fun r h => ?notRefused, exec_decodeTick_unfinished_iff s, fun hs h => ?finite⟩
  case onlyFault =>
    obtain ⟨t, ht⟩ | hstop := hstops
    · cases ht.symm.trans h
    · cases hstop.symm.trans h
      rfl
  case notRefused =>
    obtain ⟨t, ht⟩ | hstop := hstops
    · cases ht.symm.trans h
    · cases hstop.symm.trans h
  case finite =>
    obtain ⟨t, ht⟩ := exec_decodeTick_answers hs
    cases ht.symm.trans h

end Sys2Proof.Machine
end

section
/-! Two ticks in full: one that a valid frame supplied without end never lets end (70_reset_and_hazards.md R164), and
one that meets a short message under either order of checks (41_rx_decoder.md R116, 70_reset_and_hazards.md R165). -/

namespace Sys2Proof.Machine

/-! ### A frame supplied over and over (R164) -/

/-- A draw of the supply's first bytes, where there is room for them, puts them behind the others. -/
theorem rxDraw_front {s : State} {front back : List Byte} (hs : s.rxSupply = front ++ back)
    (hroom : ∀ cap, s.params.rxCap = some cap → s.rx.length + front.length ≤ cap) :
    rxDraw front.length s = { s with rx := s.rx ++ front, rxSupply := back ++ front } := by
  induction front generalizing s back with
  | nil =>
    have hback : s.rxSupply = back := hs
    simp [rxDraw, ← hback]
  | cons b bs ih =>
    have hfull : rxFull s = false := by
      unfold rxFull
      cases hcap : s.params.rxCap with
      | none => rfl
      | some cap =>
        have hle := hroom cap hcap
        rw [List.length_cons] at hle
        exact decide_eq_false (by omega)
    have hcons : s.rxSupply = b :: (bs ++ back) := hs
    simp only [List.length_cons, rxDraw, hcons, hfull, Bool.false_eq_true, if_false]
    rw [ih (back := back ++ [b]) (by simp) fun cap hcap => ?_]
    · simp
    · have hle := hroom cap hcap
      rw [List.length_cons] at hle
      rw [List.length_append, List.length_singleton]
      omega

/-- With nothing unread, what the next check asks for arrives off the front of the supply. -/
theorem rxArrive_front {s : State} {front back : List Byte} (hd : s.rxDuring = []) (hrx : s.rx = [])
    (hs : s.rxSupply = front ++ back) (hneed : checkNeed s = front.length)
    (hroom : ∀ cap, s.params.rxCap = some cap → front.length ≤ cap) :
    rxArrive s = { s with rx := front, rxSupply := back ++ front } := by
  rw [rxArrive_draw hd, hneed, rxAvail, hrx, List.length_nil, Nat.sub_zero,
    rxDraw_front hs fun cap hcap => by simpa [hrx] using hroom cap hcap, hrx, List.nil_append]

/-- A frame that R92, R100 and R101 accept, for the bytes of R60: legal addresses, and a payload that a length byte
counts. -/
structure ValidFrame (t sd : Byte) (p : List Byte) : Prop where
  target : legalAddr t = true
  sender : legalAddr sd = true
  length : (BitVec.ofNat 8 p.length : Byte).toNat = p.length

/-- What stands behind the header in a frame: the payload and its trailer. -/
def messageBytes (t sd : Byte) (p : List Byte) : List Byte := p ++ trailerBytes (cksum sd t p)

theorem messageBytes_length (t sd : Byte) (p : List Byte) : (messageBytes t sd p).length = p.length + 2 := by
  simp [messageBytes, trailerBytes]

theorem frameBytes_eq (t sd : Byte) (p : List Byte) :
    frameBytes t sd p = headerBytes t sd (BitVec.ofNat 8 p.length) ++ messageBytes t sd p :=
  List.append_assoc ..

/-- A capacity that holds what each sub-step asks for while it reads that frame. -/
def RoomForFrame (p : List Byte) (params : Config.Params) : Prop :=
  ∀ cap, params.rxCap = some cap → 5 ≤ cap ∧ p.length + 2 ≤ cap

/-- Between two iterations, before RX_SOURCE appends: all is read, and its supply is the frame from its start. -/
structure FrameNext (t sd : Byte) (p : List Byte) (u : State) : Prop where
  pending : u.hdrPending = false
  rx : u.rx = []
  during : u.rxDuring = []
  supply : u.rxSupply = frameBytes t sd p
  room : RoomForFrame p u.params

section

variable {t sd : Byte} {p more : List Byte} {s u : State}

/-- Where the frame's header heads the stream and its message is what there is next, the iteration delivers it. -/
theorem iterates_frameNext (hv : ValidFrame t sd p) (hp : s.hdrPending = false)
    (hrx : s.rx = headerBytes t sd (BitVec.ofNat 8 p.length) ++ more) (hd : s.rxDuring = [])
    (hroom : RoomForFrame p s.params)
    (harr : rxArrive (loadHeader t sd (BitVec.ofNat 8 p.length) (rxAdvance 5 s)) =
      { loadHeader t sd (BitVec.ofNat 8 p.length) (rxAdvance 5 s) with
        rx := messageBytes t sd p, rxSupply := frameBytes t sd p }) :
    ∃ u, Iterates s (rxArrive u) ∧ FrameNext t sd p u := by
  have hhdr := hdrStep_accepts hp hrx hv.target hv.sender
  have hmsg := msgStep_delivers (s := rxArrive (loadHeader t sd (BitVec.ofNat 8 p.length) (rxAdvance 5 s))) (p := p)
    (more := []) (by rw [harr]; rfl) (by rw [harr, List.append_nil]; rfl) (by rw [harr]; exact hv.length.symm)
  refine ⟨_, ⟨_, _, hhdr, hmsg, rfl⟩, ?_⟩
  rw [harr]
  exact ⟨rfl, List.drop_eq_nil_of_le (messageBytes_length t sd p).le, hd, rfl, hroom⟩

theorem FrameNext.iterates (hu : FrameNext t sd p u) (hv : ValidFrame t sd p) :
    ∃ u', Iterates (rxArrive u) (rxArrive u') ∧ FrameNext t sd p u' := by
  have hheader : rxArrive u = { u with
      rx := headerBytes t sd (BitVec.ofNat 8 p.length),
      rxSupply := messageBytes t sd p ++ headerBytes t sd (BitVec.ofNat 8 p.length) } :=
    rxArrive_front hu.during hu.rx (hu.supply.trans (frameBytes_eq t sd p))
      (by simp [checkNeed, hu.pending, Config.hdrLen, headerBytes]) fun cap hcap => (hu.room cap hcap).1
  rw [hheader]
  refine iterates_frameNext (more := []) hv hu.pending (List.append_nil _).symm hu.during hu.room ?_
  rw [frameBytes_eq]
  refine rxArrive_front hu.during rfl rfl ?_ fun cap hcap => ?_
  · rw [messageBytes_length]
    simp [checkNeed, messageNeed, pendingLength, Config.trailerLen, hv.length]
  · rw [messageBytes_length]
    exact (hu.room cap hcap).2

theorem FrameNext.tickLoop_error (hu : FrameNext t sd p u) (hv : ValidFrame t sd p) (n : Nat) :
    tickLoop n (rxArrive u) = .error .tickUnfinished := by
  induction n generalizing u with
  | zero => rfl
  | succ n ih =>
    obtain ⟨u', hiter, hnext⟩ := hu.iterates hv
    rw [hiter.tickLoop_succ, ih hnext]

/-- With the frame there, the first iteration takes no byte of the supply. -/
theorem iterates_frame (hv : ValidFrame t sd p) (hp : s.hdrPending = false) (hrx : s.rx = frameBytes t sd p)
    (hs : s.rxSupply = frameBytes t sd p) (hd : s.rxDuring = []) (hroom : RoomForFrame p s.params) :
    ∃ u, Iterates s (rxArrive u) ∧ FrameNext t sd p u := by
  rw [frameBytes_eq] at hrx
  refine iterates_frameNext hv hp hrx hd hroom ?_
  have hrest : s.rx.drop 5 = messageBytes t sd p := by rw [hrx]; rfl
  have hnone : checkNeed (loadHeader t sd (BitVec.ofNat 8 p.length) (rxAdvance 5 s)) -
      rxAvail (loadHeader t sd (BitVec.ofNat 8 p.length) (rxAdvance 5 s)) = 0 := by
    simp [checkNeed, messageNeed, pendingLength, Config.trailerLen, rxAvail, hv.length, hrest, messageBytes_length]
  rw [rxArrive_draw (by exact hd), hnone, rxDraw, ← hrest, ← hs]
  rfl

theorem tickLoop_error_of_frame (hv : ValidFrame t sd p) (hp : s.hdrPending = false) (hrx : s.rx = frameBytes t sd p)
    (hs : s.rxSupply = frameBytes t sd p) (hd : s.rxDuring = []) (hroom : RoomForFrame p s.params) (n : Nat) :
    tickLoop n s = .error .tickUnfinished := by
  cases n with
  | zero => rfl
  | succ n =>
    obtain ⟨u, hiter, hnext⟩ := iterates_frame hv hp hrx hs hd hroom
    rw [hiter.tickLoop_succ, hnext.tickLoop_error hv]

end

/-- Settles O44: each iteration delivers the frame and comes back to its start; the command's step issues the same
tick. -/
theorem endlessValidFramesNeverEndTick : Obligations.EndlessValidFramesNeverEndTick := by
  intro s t sd p ht hsd hlen hp hroom hrx hs
  have hv : ValidFrame t sd p := ⟨(legalAddr_iff t).mpr ht, (legalAddr_iff sd).mpr hsd, by simp; omega⟩
  refine ⟨fun hd => ?instruction, fun rest hscript => ?step⟩
  case instruction =>
    have hloop := tickLoop_error_of_frame hv hp hrx hs hd hroom
    exact ⟨hloop, (exec_decodeTick_unfinished_iff s).mpr hloop⟩
  case step =>
    have hloop := tickLoop_error_of_frame (s := issue 0x05#8 [] (setScript rest s)) hv hp hrx hs rfl hroom
    exact (step_eq_perform hscript).trans (congrArg settle ((exec_decodeTick_unfinished_iff _).mpr hloop))

/-! ### A short message under the two orders of checks (R165) -/

/-- MSG_STEP with its bytes there, whatever its verdict (R98, R99). -/
theorem msgStep_consumes {s t : State} {r : Result} (hg : msgGate s = none) (h : msgStep s = .ok (t, r)) :
    t.hdrPending = false ∧ t.rx = s.rx.drop (s.hdrLength.toNat + 2) ∧
      t.rxPos = s.rxPos + (s.hdrLength.toNat + 2) := by
  obtain ⟨habs, -⟩ | ⟨p, c, f, rest, -, -, hl, hverdict⟩ := msgStep_cases h
  · cases hg.symm.trans habs
  · rw [← hl]
    obtain ⟨-, -, -, rfl⟩ | ⟨-, -, rfl⟩ | ⟨-, -, -, rfl⟩ := hverdict <;> exact ⟨rfl, rfl, rfl⟩

/-- A tick that reads a pending message and finds fewer than five bytes behind it, with none to arrive, ends there. -/
theorem tickLoop_reads_message {s : State} (ho : s.params.hdrAvailFirst = false) (hg : msgGate s = none)
    (hshort : s.rx.length < s.hdrLength.toNat + 7) (hd : s.rxDuring = []) (hs : s.rxSupply = []) :
    ∃ t r r', msgStep s = .ok (t, r) ∧ tickLoop 2 s = .ok (t, r') := by
  have hp : s.hdrPending = true := ((msgGate_none_iff s).mp hg).1
  have hhdr : hdrStep s = .ok (s, .ok) := hdrStepOn_wait ((hdrGate_ok_iff s).mpr ⟨hp, .inl ho⟩)
  obtain ⟨t, r, hmsg⟩ := msgStep_answers s
  have hmsg' : msgStep (rxArrive s) = .ok (t, r) := by rwa [rxArrive_none hd hs]
  by_cases hr : r = .ok
  · subst hr
    obtain ⟨hpend, hrx, -⟩ := msgStep_consumes hg hmsg
    have hsub := msgStep_subStep hmsg
    have hiter : Iterates s t :=
      ⟨s, t, hhdr, hmsg', (rxArrive_none (hsub.rxDuring_eq.trans hd) (hsub.rxSupply_eq.trans hs)).symm⟩
    have hlen : t.rx.length < 5 := by
      rw [hrx, List.length_drop]
      omega
    exact ⟨t, .ok, .needMore, hmsg, by rw [hiter.tickLoop_succ, tickLoop_succ_short 0 hpend hlen]⟩
  · exact ⟨t, r, r, hmsg, tickLoop_msg_ends 1 hhdr hmsg' hr⟩

/-- Settles O50: the literal order asks for five bytes before it looks at the pending header; the default order goes on
to the message. -/
theorem availFirstHazard : Obligations.AvailFirstHazard := by
  intro s hp hthere hfive
  refine ⟨fun ho => ?literal, fun ho hd hs => ?default⟩
  case literal =>
    have hhdr : hdrStep s = .ok (s, .needMore) := hdrStepOn_wait ((hdrGate_needMore_iff s).mpr ⟨hfive, .inr ho⟩)
    exact exec_decodeTick_of_tickLoop (tickLoop_hdr_ends 0 hhdr nofun)
  case default =>
    have hg : msgGate s = none := (msgGate_none_iff s).mpr ⟨hp, hthere⟩
    obtain ⟨t, r, r', hmsg, hloop⟩ := tickLoop_reads_message ho hg (by omega) hd hs
    obtain ⟨hpend, -, hpos⟩ := msgStep_consumes hg hmsg
    exact ⟨_, exec_decodeTick_of_tickLoop hloop, hpend, hpos⟩

end Sys2Proof.Machine
end

section
/-! ENCODE_FRAME (42_tx_encoder.md R121 to R125): the frame it writes, and how a decoder at a header start reads a frame
off the head of its stream, by the two commands and by one tick. -/

namespace Sys2Proof.Machine

/-! ### The frame written (R121, R123) -/

theorem frameWith_length (t sd l : Byte) (p : List Byte) (k : Byte) : (frameWith t sd l p k).length = p.length + 7 := by
  simp [frameWith, headerBytes, trailerBytes]

/-- The frame that the operands stand for (R121). -/
def operandFrame (s : State) : List Byte :=
  frameWith s.argT s.argS s.argL (payload s) (cksum s.argS s.argT (payload s))

theorem operandFrame_length (s : State) : (operandFrame s).length = s.argL.toNat + 7 := by
  rw [operandFrame, frameWith_length, payload_length]

/-- Both levels of the pin: the checksum is written all the same. -/
theorem exec_encodeFrame (s : State) :
    exec .encodeFrame s = .next
      (if s.listenOnly then setResult .txSuppressed (setCkResult (cksum s.argS s.argT (payload s)) s)
       else setResult .ok
        { setCkResult (cksum s.argS s.argT (payload s)) s with tx := s.tx ++ operandFrame s }) := by
  rw [exec, execEncodeFrame, withChecksum_ok, txWriteAll_eq]
  cases s.listenOnly with
  | true => rfl
  | false => rfl

/-- Settles O20: the command's next state at both levels of the pin, the frame's length, and R121's example. -/
theorem encodeFrameResult : Obligations.EncodeFrameResult := by
  refine ⟨rfl, fun s p k hp hk => ?_⟩
  obtain rfl : p = payload s := hp
  subst hk
  refine ⟨exec_encodeFrame s, operandFrame_length s, ?rulesExample⟩
  case rulesExample =>
    rintro ⟨ht, hs, hpayload⟩
    rw [ht, hs, hpayload, cksum_rulesExample]

/-! ### The frame read back (R125) -/

/-- From `d` to `v` a decoder has delivered one frame and consumed its bytes, with `rest` behind them unread. -/
structure FrameDelivered (t sd l : Byte) (p rest : List Byte) (d v : State) : Prop where
  events : v.events = d.events ++ [.deliver t sd l p]
  rx : v.rx = rest
  rxPos : v.rxPos = d.rxPos + (l.toNat + 7)
  pending : v.hdrPending = false

section

variable {t sd l : Byte} {p rest : List Byte} {d : State}

/-- HDR_STEP at the start of a frame takes its header and leaves the message at the head of the stream. -/
theorem hdrStep_frame (ht : legalAddr t = true) (hsd : legalAddr sd = true) (hp : d.hdrPending = false)
    (hrx : d.rx = frameWith t sd l p (cksum sd t p) ++ rest) :
    hdrStep d = .ok (loadHeader t sd l (rxAdvance 5 d), .ok) ∧
      (rxAdvance 5 d).rx = p ++ trailerBytes (cksum sd t p) ++ rest := by
  have hhead : d.rx = headerBytes t sd l ++ (p ++ trailerBytes (cksum sd t p) ++ rest) := by
    simp only [hrx, frameWith, List.append_assoc]
  exact ⟨hdrStep_accepts hp hhead ht hsd, by rw [rxAdvance, hhead]; rfl⟩

/-- The message behind an accepted header, read and delivered, completes the frame. -/
theorem frameDelivered_of_header (hl : p.length = l.toNat)
    (hrx : (rxAdvance 5 d).rx = p ++ trailerBytes (cksum sd t p) ++ rest) :
    FrameDelivered t sd l p rest d
      (emit (.deliver t sd l p) (afterMessage p (loadHeader t sd l (rxAdvance 5 d)))) := by
  rw [List.append_assoc] at hrx
  rw [afterMessage_front (s := loadHeader t sd l (rxAdvance 5 d)) hrx, hl]
  refine ⟨rfl, rfl, ?rxPos, rfl⟩
  case rxPos =>
    simp only [emit_rxPos, loadHeader_rxPos, rxAdvance_rxPos]
    omega

/-- One TRY_READ_HEADER and one TRY_READ_MESSAGE deliver the frame. -/
theorem commands_deliver_frame (ht : legalAddr t = true) (hsd : legalAddr sd = true) (hl : p.length = l.toNat)
    (hp : d.hdrPending = false) (hrx : d.rx = frameWith t sd l p (cksum sd t p) ++ rest) :
    ∃ d1 d2, exec .tryReadHeader d = .next d1 ∧ exec .tryReadMessage d1 = .next d2 ∧
      FrameDelivered t sd l p rest d d2 := by
  obtain ⟨hhdr, hmore⟩ := hdrStep_frame ht hsd hp hrx
  have hmsg := msgStep_delivers (s := setResult .ok (loadHeader t sd l (rxAdvance 5 d))) rfl hmore hl
  exact ⟨_, _, congrArg finish hhdr, congrArg finish hmsg, { frameDelivered_of_header hl hmore with }⟩

/-- One DECODE_TICK delivers the frame too, and ends for want of a header where none follows and none arrives. -/
theorem tick_delivers_frame (ht : legalAddr t = true) (hsd : legalAddr sd = true) (hl : p.length = l.toNat)
    (hp : d.hdrPending = false) (hrx : d.rx = frameWith t sd l p (cksum sd t p) ++ rest) (hrest : rest.length < 5)
    (hd : d.rxDuring = []) (hs : d.rxSupply = []) :
    ∃ d', exec .decodeTick d = .next d' ∧ FrameDelivered t sd l p rest d d' ∧
      d'.lastResult = resultCode .needMore := by
  obtain ⟨hhdr, hmore⟩ := hdrStep_frame ht hsd hp hrx
  have hquiet : rxArrive (loadHeader t sd l (rxAdvance 5 d)) = loadHeader t sd l (rxAdvance 5 d) :=
    rxArrive_none hd hs
  have hloop := tickLoop_delivers_once 0 hhdr hquiet rfl hmore hl hrest hd hs
  exact ⟨_, exec_decodeTick_of_tickLoop hloop, { frameDelivered_of_header hl hmore with }, rfl⟩

end

/-- Settles O22: what ENCODE_FRAME wrote is a frame with legal addresses and as many payload bytes as its length says,
so the decoder's sub-steps accept it. -/
theorem encodeThenDecodeDelivers : Obligations.EncodeThenDecodeDelivers := by
  intro e d rest ht hsd hpin hp
  have ht' : legalAddr e.argT = true := (legalAddr_iff _).mpr ht
  have hsd' : legalAddr e.argS = true := (legalAddr_iff _).mpr hsd
  have hwritten := exec_encodeFrame e
  rw [hpin, if_neg Bool.false_ne_true] at hwritten
  refine ⟨_, operandFrame e, hwritten, rfl, operandFrame_length e, ?commands, fun hshort hd hs => ?tick⟩
  case commands =>
    obtain ⟨d1, d2, h1, h2, hdel⟩ := commands_deliver_frame (d := { d with rx := operandFrame e ++ rest })
      ht' hsd' (payload_length e) hp rfl
    exact ⟨d1, d2, h1, h2, hdel.events, hdel.rx, hdel.rxPos, hdel.pending⟩
  case tick =>
    obtain ⟨d', h, hdel, hlast⟩ := tick_delivers_frame (d := { d with rx := operandFrame e ++ rest })
      ht' hsd' (payload_length e) hp rfl hshort hd hs
    exact ⟨d', h, hdel.events, hdel.rx, hdel.rxPos, hdel.pending, hlast⟩

end Sys2Proof.Machine
end

section
/-! Ticks drain what is buffered (41_rx_decoder.md R112, R115, 60_exceptions.md R138, 70_reset_and_hazards.md R163): a
tick that does not end with NEED_MORE ends with a receive error, and no error comes without the two bytes of a trailer,
or the five of a header, having been consumed. -/

namespace Sys2Proof.Machine

/-- A failing sub-step has consumed a bad header or a bad message, of which the trailer alone is two bytes (R93, R98). -/
theorem SubStep.unread_length_of_error {s t : State} {r : Result} (h : SubStep s t r) (he : r.isError = true) :
    (unread t).length + 2 ≤ (unread s).length := by
  cases h with
  | waits hr => exact absurd he (by simp [hr])
  | accepts hlen ht hsd => cases he
  | rejectsHeader hlen _ =>
    simp [unread_length]
    omega
  | delivers hlen => cases he
  | rejectsMessage hlen _ =>
    simp [unread_length, rejectMessage, afterMessage]
    omega

theorem ReceiveRun.rxSupply_nil {s t : State} {r : Result} (h : ReceiveRun s t r) (hs : s.rxSupply = []) :
    t.rxSupply = [] := by
  induction h with
  | last hsub => exact hsub.rxSupply_eq.trans hs
  | more hsub _ ih => exact ih (rxArrive_rxSupply_nil (hsub.rxSupply_eq.trans hs))

/-- The sub-steps before the failing one, and the arrivals between, do not add to the bytes there and to come. -/
theorem ReceiveRun.unread_length_of_error {s t : State} {r : Result} (h : ReceiveRun s t r) (hs : s.rxSupply = [])
    (he : r.isError = true) : (unread t).length + 2 ≤ (unread s).length := by
  induction h with
  | last hsub => exact hsub.unread_length_of_error he
  | @more s s1 t r hsub _ ih =>
    have hs1 : s1.rxSupply = [] := hsub.rxSupply_eq.trans hs
    calc (unread t).length + 2
      _ ≤ (unread (rxArrive s1)).length := ih (rxArrive_rxSupply_nil hs1) he
      _ ≤ (unread s1).length := rxArrive_unread_length hs1
      _ ≤ (unread s).length := hsub.unread_length_le

/-- One tick's progress: where nothing arrives it answers, nothing will arrive after it either, and it has used up what
it can read or consumed two bytes. -/
theorem exec_decodeTick_needMore_or_consumes {s : State} (hd : s.rxDuring = []) (hs : s.rxSupply = []) :
    ∃ t, exec .decodeTick s = .next t ∧ t.rxDuring = [] ∧ t.rxSupply = [] ∧
      (t.lastResult = resultCode .needMore ∨ t.rx.length + 2 ≤ s.rx.length) := by
  obtain ⟨t, htick⟩ := exec_decodeTick_answers hs
  have hdt : t.rxDuring = [] := exec_decodeTick_during_nil hs hd htick
  obtain ⟨u, r, hloop, rfl⟩ := finish_next htick
  have hrun := tickLoop_run hloop
  refine ⟨_, htick, hdt, hrun.rxSupply_nil hs, ?_⟩
  obtain rfl | herr := tickLoop_result hloop
  · exact .inl rfl
  · have hdu : u.rxDuring = [] := hdt
    have hless := hrun.unread_length_of_error hs (isError_of_mem_receiveErrors herr)
    exact .inr (by simpa [unread_length, hdu, hd] using hless)

theorem ticks_succ {s t : State} (h : exec .decodeTick s = .next t) (n : Nat) : ticks (n + 1) s = ticks n t := by
  rw [ticks, h]

/-- Settles O47, by strong induction on the unread bytes: each tick but the last consumes two of them. -/
theorem ticksDrainStream : Obligations.TicksDrainStream := by
  intro s hd hs
  induction hN : s.rx.length using Nat.strong_induction_on generalizing s with
  | h N ih =>
    obtain ⟨t, htick, hdt, hst, hmore | hless⟩ := exec_decodeTick_needMore_or_consumes hd hs
    · exact ⟨0, t, Nat.zero_le _, ticks_succ htick 0, hmore⟩
    · obtain ⟨n, u, hn, hticks, hmore⟩ := ih t.rx.length (by omega) t hdt hst rfl
      exact ⟨n + 1, u, by omega, (ticks_succ htick (n + 1)).trans hticks, hmore⟩

end Sys2Proof.Machine
end

section
/-! Reset and the idle block (70_reset_and_hazards.md R150, R152), and the stall of a pending header that RX_SOURCE cannot
hold (R161): what arrives never gets past the capacity, so no sub-step ever gets past its gate. -/

namespace Sys2Proof.Machine

/-! ### Idle and reset (R150, R152) -/

/-- Settles O7: an empty script has no move to make. -/
theorem idleStepChangesNothing : Obligations.IdleStepChangesNothing := by
  intro s h
  rw [step, runScript, h]

/-- Settles O8: RESET is one update of the state, whose fields are known. -/
theorem resetValues : Obligations.ResetValues := by
  refine ⟨⟨rfl, rfl, rfl, rfl, rfl, rfl, rfl, rfl⟩, fun s rest h => ?_⟩
  refine ⟨resetBlock (setScript rest s), step_eq_perform h, ?_⟩
  simp [resultCode]

/-! ### What keeps a stall (R161) -/

/-- A capacity that holds the 257 bytes of the longest message rules the stall out. -/
theorem not_stalled_of_cap {s : State} {cap : Nat} (hc : s.params.rxCap = some cap) (hcap : 257 ≤ cap) :
    stalled s = false := by
  rw [Bool.eq_false_iff, Ne, stalled_iff]
  rintro ⟨cap', hc', -, hneed, -⟩
  obtain rfl : cap = cap' := Option.some.inj (hc.symm.trans hc')
  have hlen := s.hdrLength.isLt
  omega

section

variable {s : State}

/-- A change of the unread bytes that keeps within the capacity keeps the stall. -/
theorem stalled_of_within {t : State} (h : stalled s = true) (hparams : t.params = s.params)
    (hpend : t.hdrPending = s.hdrPending) (hlen : t.hdrLength = s.hdrLength)
    (hrx : ∀ cap, s.params.rxCap = some cap → s.rx.length ≤ cap → t.rx.length ≤ cap) : stalled t = true := by
  obtain ⟨cap, hc, hp, hneed, hle⟩ := (stalled_iff s).mp h
  exact (stalled_iff t).mpr ⟨cap, by rw [hparams, hc], by rw [hpend, hp], by rwa [hlen], hrx cap hc hle⟩

theorem stalled_rxAppend (h : stalled s = true) (bs : List Byte) : stalled (rxAppend bs s) = true :=
  stalled_of_within h (rxAppend_params bs s) (rxAppend_hdrPending bs s) (rxAppend_hdrLength bs s)
    fun _ hc hle => rxAppend_within hc hle

theorem stalled_rxDraw (h : stalled s = true) (n : Nat) : stalled (rxDraw n s) = true :=
  stalled_of_within h (rxDraw_params n s) (rxDraw_hdrPending n s) (rxDraw_hdrLength n s)
    fun _ hc hle => rxDraw_within hc hle

theorem stalled_rxArrive (h : stalled s = true) : stalled (rxArrive s) = true := by
  cases hd : s.rxDuring with
  | nil =>
    rw [rxArrive_draw hd]
    exact stalled_rxDraw h _
  | cons batch more =>
    rw [rxArrive_batch hd]
    exact stalled_rxAppend (s := { s with rxDuring := more }) h batch

theorem stalled_rxSettle (h : stalled s = true) : stalled (rxSettle s) = true :=
  stalled_rxAppend (s := { s with rxDuring := [] }) h _

/-! ### The instructions under a stall -/

/-- HDR_STEP finds the header pending, or under the literal order waits before it looks (R91). -/
theorem hdrGate_stalled (h : stalled s = true) : hdrGate s = some .ok ∨ hdrGate s = some .needMore := by
  obtain ⟨_, -, hp, -⟩ := (stalled_iff s).mp h
  cases hg : hdrGate s with
  | none => cases hp.symm.trans ((hdrGate_none_iff s).mp hg).1
  | some r => obtain ⟨rfl, -⟩ | ⟨rfl, -⟩ := hdrGate_some hg <;> simp

/-- MSG_STEP waits for more than RX_SOURCE can hold (R97). -/
theorem msgGate_stalled (h : stalled s = true) : msgGate s = some .needMore := by
  obtain ⟨cap, -, hp, hneed, hle⟩ := (stalled_iff s).mp h
  exact msgGate_short hp (by omega)

/-- A tick ends in its first iteration, before or after the first arrival between two sub-steps. -/
theorem tickLoop_stalled (h : stalled s = true) :
    ∃ u, tickLoop 1 s = .ok (u, .needMore) ∧ stalled u = true ∧ u.events = s.events := by
  obtain hg | hg := hdrGate_stalled h
  · have hmsg : msgStep (rxArrive s) = .ok (rxArrive s, .needMore) :=
      msgStepOn_wait (msgGate_stalled (stalled_rxArrive h))
    exact ⟨_, tickLoop_msg_ends 0 (hdrStepOn_wait hg) hmsg nofun, stalled_rxArrive h, rxArrive_events s⟩
  · exact ⟨_, tickLoop_hdr_ends 0 (hdrStepOn_wait hg) nofun, h, rfl⟩

theorem exec_decodeTick_stalled (h : stalled s = true) :
    ∃ t, exec .decodeTick s = .next t ∧ t.lastResult = resultCode .needMore ∧ t.events = s.events ∧
      stalled t = true := by
  obtain ⟨u, hloop, hu, hev⟩ := tickLoop_stalled h
  exact ⟨_, exec_decodeTick_of_tickLoop hloop, rfl, hev, hu⟩

/-- No instruction ends a stall: the receive instructions wait, the others do not touch the header or the stream. -/
theorem exec_keeps_stalled {i : Instr} {t : State} (h : stalled s = true) (hexec : exec i s = .next t) :
    stalled t = true := by
  cases hi : isReceive i with
  | true =>
    obtain ⟨unit, -, hform⟩ | ⟨unit, -, hform⟩ | rfl := exec_receive_forms hi
    · obtain hg | hg := hdrGate_stalled h
      all_goals
        rw [hform, hdrStepOn_wait hg] at hexec
        cases hexec
        exact h
    · rw [hform, msgStepOn_wait (msgGate_stalled h)] at hexec
      cases hexec
      exact h
    · obtain ⟨u, hu, -, -, hstall⟩ := exec_decodeTick_stalled h
      cases hu.symm.trans hexec
      exact hstall
  | false =>
    obtain ⟨k, b, w, r, hother⟩ := exec_other hi s
    cases hother.symm.trans hexec
    exact h

/-- Of the moves RESET alone clears the pending header. -/
theorem perform_keeps_stalled {a : Action} {t : State} (h : stalled s = true) (ha : a ≠ .reset)
    (hmove : perform a s = .next t) : stalled t = true := by
  obtain ⟨bytes, -, rfl⟩ | ⟨_, _, _, _, -, rfl⟩ | ⟨start, bytes, -, -, rfl⟩ | ⟨op, during, t', -, hexec, rfl⟩ |
    ⟨bytes, -, rfl⟩ | ⟨hreset, -⟩ | ⟨level, -, rfl⟩ := perform_cases hmove
  · -- feed
    exact stalled_rxAppend h bytes
  · -- args
    exact h
  · -- writeObuf
    exact h
  · -- command
    exact stalled_rxSettle (exec_keeps_stalled (s := issue op during s) h hexec)
  · -- supply
    exact h
  · -- reset
    exact absurd hreset ha
  · -- listenOnly
    exact h

end

/-- Settles O55: a tick waits at a gate, an append stops at the capacity, and of the moves only RESET clears the header. -/
theorem stallLastsUntilReset : Obligations.StallLastsUntilReset := by
  refine ⟨fun _ _ => not_stalled_of_cap, fun s h => ?tick, fun s t h hstep hreset => ?step⟩
  case tick =>
    obtain ⟨t, hexec, hlast, hev, -⟩ := exec_decodeTick_stalled h
    exact ⟨t, hexec, hlast, hev⟩
  case step =>
    obtain ⟨-, hidle⟩ | ⟨a, rest, hscript, hmove⟩ := runScript_cases hstep
    · cases hidle
      exact h
    · have ha : a ≠ .reset := fun heq => hreset rest (by rw [hscript, heq])
      exact perform_keeps_stalled (s := setScript rest s) h ha hmove.symm

end Sys2Proof.Machine
end
